-- ==== Sys2Proof/Word.lean ====
section
/-! DEFINITION. The words and small index types of the BX16: bytes, tags, station numbers, message classes,
the fixed-size tables indexed by them, and the level of a pin. Nothing here carries behaviour. -/

namespace Sys2Proof

/-- A byte, on the host port or in a frame (chapter 10). -/
abbrev Byte := BitVec 8

/-- A 16-bit session tag; 0 means "none" (section 1.2, R4). -/
abbrev Tag := BitVec 16

/-- A count that travels on the line (sequence numbers, accepted counts, limits): 8 bits, wrapping from 255 to 0
(00_scope, "Counts and distance"). -/
abbrev Count := BitVec 8

/-- A station number, 0 to 15 (00_scope, "Stations, peers and classes"). -/
abbrev Station := Fin 16

/-- A message class, 0 (most urgent) to 3. -/
abbrev Cls := Fin 4

/-- One entry for each station number. -/
abbrev Table (α : Type) := Vector α 16

/-- One entry for each class. -/
abbrev PerClass (α : Type) := Vector α 4

/-- The level of a digital pin. -/
inductive PinLevel where
  | low
  | high
deriving DecidableEq, Repr

/-- All station numbers, rising. -/
def stations : List Station := [0, 1, 2, 3, 4, 5, 6, 7, 8, 9, 10, 11, 12, 13, 14, 15]

/-- All classes, in the order "for each class" means (00_scope). -/
def classes : List Cls := [0, 1, 2, 3]

end Sys2Proof
end

