-- ==== Sys2Proof/Syntax.lean ====
section
/-! DEFINITION. The commands of the BX16, one constructor of `Instr` per row of spec/opcode_table.json, and the types of
their operands. A host command carries the field bytes its SPI transaction delivered, exactly as clocked in (section
10.2); a received frame carries the fields of its kind (section 10.1); a timer expiry carries the peer whose timer it
is. -/

namespace Sys2Proof

/-- The fourteen bytes of a configuration record, MOSI bytes 1 to 14 of a CONFIGURE (section 10.3). -/
structure ConfigImage where
  /-- byte 1 -/
  ownStation : Byte
  /-- byte 2 -/
  incarnation : Byte
  /-- byte 3, the bit rate code -/
  bitRate : Byte
  /-- byte 4 -/
  grant0 : Byte
  /-- byte 5 -/
  grant1 : Byte
  /-- byte 6 -/
  grant2 : Byte
  /-- byte 7 -/
  grant3 : Byte
  /-- byte 8 -/
  retryLimit : Byte
  /-- byte 9, in ms -/
  ackTimeout : Byte
  /-- byte 10, in ms -/
  refreshInterval : Byte
  /-- byte 11 -/
  silenceMultiple : Byte
  /-- byte 12, in ms -/
  joinInterval : Byte
  /-- byte 13 -/
  joinAttempts : Byte
  /-- byte 14, in units of 10 ms -/
  holdDown : Byte
deriving DecidableEq, Repr

/-- One class's pair in a TALLY: the receiver's accepted count A and limit L (R49, section 10.1). -/
structure TallyPair where
  accepted : Count
  limit : Count
deriving DecidableEq, Repr

/-- Why a contending frame is lost (R126, the first three bullets). -/
inductive LossCause where
  /-- a dominant bit before this station's own start bit: another station started at an earlier start point -/
  | earlierStart
  /-- recessive sent, dominant read, at an arbitration bit -/
  | arbitration
  /-- dominant sent, recessive read, at the start bit or an arbitration bit -/
  | driveFault
deriving DecidableEq, Repr

/-- The classes of a discarded frame (R132). -/
inductive DiscardClass where
  | broken
  | badRank
  | badKind
  | badLength
  | badEnd
  | badCheck
deriving DecidableEq, Repr

/-- The frame kinds that carry a destination field (section 10.1). -/
inductive DirectedKind where
  | join
  | sever
  | tally
  | message
deriving DecidableEq, Repr

/-- What the RST pin does (R161). -/
inductive PinMove where
  /-- it goes low, and stays low -/
  | falls
  /-- it rises from low -/
  | rises
  /-- it goes low and rises again, with nothing between -/
  | pulse
deriving DecidableEq, Repr

/-- The levels the input pins RST and CS have at a moment (R151, R161). -/
structure PinLevels where
  rst : PinLevel
  cs : PinLevel
deriving DecidableEq, Repr

/-- The commands, one constructor per row of spec/opcode_table.json, in the table's order. -/
inductive Instr where
  /-- CONFIGURE (R154): the record as clocked in -/
  | configure (image : ConfigImage)
  /-- START (R155) -/
  | start
  /-- LEAVE (R156) -/
  | leave
  /-- RESET (R161) -/
  | reset
  /-- SUBMIT (R70, R71): destination, class, host tag and length as clocked in, then every complete payload byte -/
  | submit (dest cls : Byte) (hostTag length : BitVec 16) (payload : List Byte)
  /-- CANCEL (R75) -/
  | cancel (hostTag : BitVec 16) (dest : Byte)
  /-- COMPLETIONS (R80): the count byte -/
  | completions (count : Byte)
  /-- COMPLETION_RECORD_READ (R80): the last byte of the next completion record has been clocked out -/
  | completionRecordRead
  /-- TAKE (R57): the class byte -/
  | take (classByte : Byte)
  /-- TAKE_COMPLETE (R60): the last payload bit of the TAKE has been clocked out -/
  | takeComplete
  /-- PEEK (R63): the class byte -/
  | peek (classByte : Byte)
  /-- STATUS (R144) -/
  | status
  /-- STATUS_READ_CLEAR (R145): the last byte of the status record has ended -/
  | statusReadClear
  /-- PEERS (R146): the peer byte -/
  | peers (peerByte : Byte)
  /-- PEERS_READ_CLEAR (R147): the last byte of the peer record has ended -/
  | peersReadClear
  /-- MASK (R148): the mask byte -/
  | mask (value : Byte)
  /-- UNKNOWN_COMMAND (R141): the command byte, one that names no command -/
  | unknownCommand (code : Byte)
  /-- TRANSACTION_BEGIN (R139): CS falls -/
  | transactionBegin
  /-- TRANSACTION_END (R140): CS rises -/
  | transactionEnd
  /-- RESET_PIN (R161): RST goes low, rises, or does both -/
  | resetPin (move : PinMove)
  /-- POWER_ON (R161): the supply has risen; the levels RST and CS have then (R151) -/
  | powerOn (pins : PinLevels)
  /-- FRAME_BUILD (R116) -/
  | frameBuild
  /-- FRAME_WON (R126) -/
  | frameWon
  /-- FRAME_LOST (R126), with its cause -/
  | frameLost (cause : LossCause)
  /-- FRAME_COMPLETED (R128) -/
  | frameCompleted
  /-- FRAME_ABORTED (R127) -/
  | frameAborted
  /-- IDLE_BEGUN (R125) -/
  | idleBegun
  /-- WINDOW_OUT (R115) -/
  | windowOut
  /-- FRAME_DISCARD (R132), with the class under which the frame is found bad -/
  | frameDiscard (cls : DiscardClass)
  /-- ANNOUNCE_RECEIVED (R15): source, incarnation -/
  | announceReceived (src : Station) (incarnation : Byte)
  /-- JOIN_RECEIVED (R16 to R18): a JOIN addressed to this station -/
  | joinReceived (src : Station) (srcTag yourTag : Tag)
  /-- SEVER_RECEIVED (R23): a SEVER addressed to this station -/
  | severReceived (src : Station) (srcTag dstTag : Tag) (reason : Byte)
  /-- TALLY_RECEIVED (R20 to R22): a TALLY addressed to this station -/
  | tallyReceived (src : Station) (srcTag dstTag : Tag) (pairs : PerClass TallyPair)
  /-- MESSAGE_RECEIVED (R20 to R22, R39): a MESSAGE addressed to this station -/
  | messageReceived (src : Station) (srcTag dstTag : Tag) (cls : Cls) (seq : Count) (payload : List Byte)
  /-- JOIN_TIMER_EXPIRY (R24) -/
  | joinTimerExpiry (peer : Station)
  /-- HOLD_DOWN_EXPIRY (R25) -/
  | holdDownExpiry (peer : Station)
  /-- SILENCE_EXPIRY (R26) -/
  | silenceExpiry (peer : Station)
  /-- REFRESH_EXPIRY (R27) -/
  | refreshExpiry (peer : Station)
  /-- ACK_TIMER_EXPIRY (R102) -/
  | ackTimerExpiry (peer : Station)
  /-- DRAINED (R157) -/
  | drained
  /-- FRAME_ADDRESSED_TO_ANOTHER_STATION (R135): kind and source of a good directed frame for a third station -/
  | frameAddressedToAnotherStation (kind : DirectedKind) (src : Station)
  /-- START_BIT_RECEIVED (R125) -/
  | startBitReceived
deriving DecidableEq, Repr

/-- A frame as its fields (section 10.1): what the outbound buffer holds and what a receiver assembles. The class of a
MESSAGE is its rank less one; its length is the number of its payload bytes. -/
inductive Frame where
  | announce (src : Station) (incarnation : Byte)
  | join (src dst : Station) (srcTag yourTag : Tag)
  | tally (src dst : Station) (srcTag dstTag : Tag) (pairs : PerClass TallyPair)
  | sever (src dst : Station) (srcTag dstTag : Tag) (reason : Byte)
  | message (src dst : Station) (srcTag dstTag : Tag) (cls : Cls) (seq : Count) (payload : List Byte)
deriving DecidableEq, Repr

end Sys2Proof
end

