-- ==== Sys2Proof/Decode.lean ====
section
/-! DEFINITION. How commands stand as bits. The opcode table gives no row any bits, so `decodeTableWord` answers none.
The block still reads two bit streams: a frame on the line (R123, R131, R132, section 10.1) and the MOSI bytes of a
transaction (R137, R138, R141, R142, section 10.2). Both are decoded here to the commands they are, with their encoders
beside them. A bit `true` is 1, recessive; `false` is 0, dominant. -/

namespace Sys2Proof

/-- No row of spec/opcode_table.json has bits (the reader's count: 0 rows with fixed bits), so no word spells a
command. -/
def decodeTableWord (_nbits _w : Nat) : Option Instr := none

/-! ## Fields as bits -/

/-- A field's bits, most significant first (chapter 10, "Bit order"). -/
def fieldBits {w : Nat} (x : BitVec w) : List Bool :=
  (List.range w).map x.getMsbD

/-- The number a list of bits spells, most significant first. -/
def bitsToNat (bits : List Bool) : Nat :=
  bits.foldl (fun n b => 2 * n + b.toNat) 0

/-- The `w`-bit field that begins at bit `at_` of `bits`. -/
def field (bits : List Bool) (at_ w : Nat) : BitVec w :=
  BitVec.ofNat w (bitsToNat ((bits.drop at_).take w))

/-- The station number in the 4-bit field at `at_`. -/
def stationField (bits : List Bool) (at_ : Nat) : Station :=
  Fin.ofNat 16 (field bits at_ 4).toNat

/-- A station number as its 4-bit field. -/
def stationBits (p : Station) : List Bool :=
  fieldBits (BitVec.ofNat 4 p.val)

/-! ## Frames on the line -/

/-- The source station of a frame. -/
def Frame.source : Frame → Station
  | .announce src _ => src
  | .join src _ _ _ => src
  | .tally src _ _ _ _ => src
  | .sever src _ _ _ _ => src
  | .message src _ _ _ _ _ _ => src

/-- The destination of a directed frame; an ANNOUNCE has none (section 10.1). -/
def Frame.destination : Frame → Option Station
  | .announce _ _ => none
  | .join _ dst _ _ => some dst
  | .tally _ dst _ _ _ => some dst
  | .sever _ dst _ _ _ => some dst
  | .message _ dst _ _ _ _ _ => some dst

/-- The rank: 0 for control frames, 1 + class for a MESSAGE (R116, section 10.1). -/
def Frame.rank : Frame → BitVec 3
  | .message _ _ _ _ c _ _ => BitVec.ofNat 3 (1 + c.val)
  | _ => 0

/-- The frame kind code (section 10.1). -/
def Frame.kindCode : Frame → BitVec 4
  | .announce .. => 0x1
  | .join .. => 0x2
  | .tally .. => 0x3
  | .sever .. => 0x4
  | .message .. => 0x5

/-- The arbitration word: rank in three bits, then source station in four (R116). The lower word wins (R126). -/
def Frame.arbitrationWord (f : Frame) : BitVec 7 :=
  f.rank ++ BitVec.ofNat 4 f.source.val

/-- The common head: rank, source station, kind (section 10.1). -/
def Frame.headBits (f : Frame) : List Bool :=
  fieldBits f.rank ++ stationBits f.source ++ fieldBits f.kindCode

/-- One class's A and L in a TALLY. -/
def TallyPair.bits (t : TallyPair) : List Bool :=
  fieldBits t.accepted ++ fieldBits t.limit

/-- The fields of the kind, in order (section 10.1). -/
def Frame.kindBits : Frame → List Bool
  | .announce _ inc => fieldBits inc
  | .join _ dst srcTag yourTag => stationBits dst ++ fieldBits srcTag ++ fieldBits yourTag
  | .tally _ dst srcTag dstTag pairs =>
    stationBits dst ++ fieldBits srcTag ++ fieldBits dstTag ++ pairs.toList.flatMap TallyPair.bits
  | .sever _ dst srcTag dstTag reason => stationBits dst ++ fieldBits srcTag ++ fieldBits dstTag ++ fieldBits reason
  | .message _ dst srcTag dstTag _ seq payload =>
    stationBits dst ++ fieldBits srcTag ++ fieldBits dstTag ++ fieldBits seq ++
      fieldBits (BitVec.ofNat 9 payload.length) ++ payload.flatMap fieldBits

/-- The bits the frame check covers: head and fields (R131). -/
def Frame.coveredBits (f : Frame) : List Bool :=
  f.headBits ++ f.kindBits

/-- One bit's step of the frame check register, generator 0x04C11DB7 (R131, step 2). -/
def frameCheckStep (reg : BitVec 32) (b : Bool) : BitVec 32 :=
  if reg.msb != b then (reg <<< 1) ^^^ 0x04C11DB7#32 else reg <<< 1

/-- The 32-bit frame check: from all ones, over the covered bits, inverted at the end (R131). -/
def frameCheck (bits : List Bool) : BitVec 32 :=
  ~~~ (bits.foldl frameCheckStep (BitVec.allOnes 32))

/-- Stuffing: after five consecutive bits of one level, one bit of the opposite level, which counts as the first of a
new run. `last` and `run` are the level and length of the run so far (R123). -/
def stuff (last : Bool) (run : Nat) : List Bool → List Bool
  | [] => []
  | b :: bs =>
    let now := if b = last then run + 1 else 1
    if now = 5 then b :: (!b) :: stuff (!b) 1 bs else b :: stuff b now bs

/-- The unstuffed body of a frame: head, fields, frame check (R123). -/
def Frame.bodyBits (f : Frame) : List Bool :=
  f.coveredBits ++ fieldBits (frameCheck f.coveredBits)

/-- The end delimiter: eight recessive bits, not stuffed (R123). -/
def endDelimiter : List Bool := List.replicate 8 true

/-- The abort marker: eight consecutive dominant bits (R123). -/
def abortMarker : List Bool := List.replicate 8 false

/-- A frame as it travels: the dominant start bit, the stuffed body, the end delimiter (R123). -/
def Frame.lineBits (f : Frame) : List Bool :=
  false :: stuff false 1 f.bodyBits ++ endDelimiter

/-- How many body bits the frame has, frame check included, as soon as the bits read so far tell: from the kind, and for
a MESSAGE from its length field as well (R123, "Frame sizes" of section 10.1). -/
def bodySize (bits : List Bool) : Option Nat :=
  if bits.length < 11 then none
  else match (field bits 7 4).toNat with
    | 1 => some (19 + 32)
    | 2 => some (47 + 32)
    | 3 => some (111 + 32)
    | 4 => some (55 + 32)
    | 5 => if bits.length < 64 then none else some (64 + 8 * (field bits 55 9).toNat + 32)
    | _ => none

/-- The `n` payload bytes from bit 64 on. -/
def payloadField (bits : List Bool) (n : Nat) : List Byte :=
  (List.range n).map fun k => field bits (64 + 8 * k) 8

/-- The pair of class `c` in a TALLY's body. -/
def pairField (bits : List Bool) (c : Nat) : TallyPair :=
  ⟨field bits (47 + 16 * c) 8, field bits (55 + 16 * c) 8⟩

/-- The fields of a complete body, by its kind (section 10.1). -/
def frameOfBody (bits : List Bool) : Option Frame :=
  let src := stationField bits 3
  let dst := stationField bits 11
  match (field bits 7 4).toNat with
  | 1 => some (.announce src (field bits 11 8))
  | 2 => some (.join src dst (field bits 15 16) (field bits 31 16))
  | 3 => some (.tally src dst (field bits 15 16) (field bits 31 16)
      #v[pairField bits 0, pairField bits 1, pairField bits 2, pairField bits 3])
  | 4 => some (.sever src dst (field bits 15 16) (field bits 31 16) (field bits 47 8))
  | 5 => some (.message src dst (field bits 15 16) (field bits 31 16) (Fin.ofNat 4 ((field bits 0 3).toNat - 1))
      (field bits 47 8) (payloadField bits (field bits 55 9).toNat))
  | _ => none

/-- Does the kind field name a kind, with the rank that kind must carry (R132, "bad kind")? -/
def kindFits (bits : List Bool) : Bool :=
  let rank := (field bits 0 3).toNat
  match (field bits 7 4).toNat with
  | 1 | 2 | 3 | 4 => rank = 0
  | 5 => 1 ≤ rank ∧ rank ≤ 4
  | _ => false

/-- What assembling a frame comes to (R131, R132). -/
inductive Reception where
  /-- the bits end before the frame does -/
  | incomplete
  /-- a good frame -/
  | good (f : Frame)
  /-- discarded, in the first class found -/
  | discarded (c : DiscardClass)
deriving DecidableEq, Repr

/-- The condition of R132, other than "broken" and "bad end", that the body read so far is found to meet at its last
bit. A MESSAGE whose length field is smaller than its payload is found bad here, at the frame check that its length
places inside the payload, where R132's table finds a failing check; R132's sentence below the table has it end in the
bad end class. That the class reported is bad check is the model's: DESIGN CHOICE, assumption log 19. -/
def foundBad (bits : List Bool) : Option DiscardClass :=
  if bits.length = 7 ∧ 5 ≤ (field bits 0 3).toNat then some .badRank
  else if bits.length = 11 ∧ kindFits bits = false then some .badKind
  else if bits.length = 64 ∧ (field bits 7 4).toNat = 5 ∧
      ((field bits 55 9).toNat = 0 ∨ 500 < (field bits 55 9).toNat) then some .badLength
  else match bodySize bits with
    | some n =>
      if bits.length = n ∧ field bits (n - 32) 32 ≠ frameCheck (bits.take (n - 32)) then some .badCheck else none
    | none => none

/-- Is the body whole? -/
def bodyWhole (bits : List Bool) : Bool :=
  bodySize bits = some bits.length

/-- The end delimiter: `left` bits to come, each recessive, or the frame is discarded (R132, "bad end"). -/
def readEnd (body : List Bool) : Nat → List Bool → Reception
  | 0, _ => match frameOfBody body with
    | some f => .good f
    | none => .discarded .badKind
  | _ + 1, [] => .incomplete
  | left + 1, b :: bs => if b then readEnd body left bs else .discarded .badEnd

/-- Assembling the body: `last` and `run` are the level and length of the run so far, `got` the unstuffed bits. After
five bits of one level the next is a stuffed bit, removed; a sixth of that level is "broken" (R123, R131, R132). -/
def readBody (last : Bool) (run : Nat) (got : List Bool) : List Bool → Reception
  | [] => .incomplete
  | b :: bs =>
    if run = 5 then
      if b = last then .discarded .broken
      else if bodyWhole got then readEnd got 8 bs
      else readBody b 1 got bs
    else
      let now := if b = last then run + 1 else 1
      match foundBad (got ++ [b]) with
      | some c => .discarded c
      | none =>
        if bodyWhole (got ++ [b]) ∧ now ≠ 5 then readEnd (got ++ [b]) 8 bs
        else readBody b now (got ++ [b]) bs

/-- Assembling the frame whose start bit is the first bit given (R131). -/
def receiveBits : List Bool → Reception
  | false :: bs => readBody false 1 [] bs
  | _ => .incomplete

/-- The command a good frame is at the station numbered `own`: a directed frame for another station is the heard update
alone (R135). -/
def commandOfFrame (own : Station) : Frame → Instr
  | .announce src inc => .announceReceived src inc
  | .join src dst srcTag yourTag =>
    if dst = own then .joinReceived src srcTag yourTag else .frameAddressedToAnotherStation .join src
  | .sever src dst srcTag dstTag reason =>
    if dst = own then .severReceived src srcTag dstTag reason else .frameAddressedToAnotherStation .sever src
  | .tally src dst srcTag dstTag pairs =>
    if dst = own then .tallyReceived src srcTag dstTag pairs else .frameAddressedToAnotherStation .tally src
  | .message src dst srcTag dstTag c seq payload =>
    if dst = own then .messageReceived src srcTag dstTag c seq payload
    else .frameAddressedToAnotherStation .message src

/-- The command that a run of line bits, from a start bit on, is at the station numbered `own` (R131, R132, R135). -/
def commandOfLine (own : Station) (bits : List Bool) : Option Instr :=
  match receiveBits bits with
  | .good f => some (commandOfFrame own f)
  | .discarded c => some (.frameDiscard c)
  | .incomplete => none

/-! ## Transactions on the host port -/

/-- The twelve command codes (section 10.2). -/
def commandCodes : List Byte :=
  [0x10, 0x11, 0x12, 0x1F, 0x20, 0x21, 0x22, 0x30, 0x31, 0x40, 0x41, 0x42]

/-- Does the command byte name a command (R141)? -/
def namesCommand (code : Byte) : Bool :=
  commandCodes.contains code

/-- Two bytes as one 16-bit field, most significant byte first (R137). -/
def word16 (hi lo : Byte) : BitVec 16 := hi ++ lo

/-- The high byte of a 16-bit field. -/
def highByte (x : BitVec 16) : Byte := x.extractLsb' 8 8

/-- The low byte of a 16-bit field. -/
def lowByte (x : BitVec 16) : Byte := x.extractLsb' 0 8

/-- The command a transaction's complete MOSI bytes are; none where the command byte or the fields are incomplete, the
SHORT outcome of R142. Bytes after a command's fields are ignored, but for SUBMIT's payload (R138). -/
def commandOfMosi : List Byte → Option Instr
  | [] => none
  | code :: rest =>
    if code = 0x10 then
      match rest with
      | b1 :: b2 :: b3 :: b4 :: b5 :: b6 :: b7 :: b8 :: b9 :: b10 :: b11 :: b12 :: b13 :: b14 :: _ =>
        some (.configure ⟨b1, b2, b3, b4, b5, b6, b7, b8, b9, b10, b11, b12, b13, b14⟩)
      | _ => none
    else if code = 0x11 then some .start
    else if code = 0x12 then some .leave
    else if code = 0x1F then some .reset
    else if code = 0x20 then
      match rest with
      | d :: c :: t1 :: t0 :: l1 :: l0 :: payload => some (.submit d c (word16 t1 t0) (word16 l1 l0) payload)
      | _ => none
    else if code = 0x21 then
      match rest with
      | t1 :: t0 :: d :: _ => some (.cancel (word16 t1 t0) d)
      | _ => none
    else if code = 0x22 then rest.head?.map .completions
    else if code = 0x30 then rest.head?.map .take
    else if code = 0x31 then rest.head?.map .peek
    else if code = 0x40 then some .status
    else if code = 0x41 then rest.head?.map .peers
    else if code = 0x42 then rest.head?.map .mask
    else some (.unknownCommand code)

/-- Bytes as their bits on a port pin, each most significant bit first (R137). -/
def bitsOfBytes (bytes : List Byte) : List Bool := bytes.flatMap fieldBits

/-- The bytes that bits counted from CS falling make, eight to a byte; the bits of a byte that has not ended are dropped
(R137). -/
def bytesOfBits : List Bool → List Byte
  | b7 :: b6 :: b5 :: b4 :: b3 :: b2 :: b1 :: b0 :: rest =>
    field [b7, b6, b5, b4, b3, b2, b1, b0] 0 8 :: bytesOfBits rest
  | _ => []

/-- The command that the MOSI bits of a transaction are, from CS falling to CS rising (R137). -/
def commandOfPort (bits : List Bool) : Option Instr := commandOfMosi (bytesOfBits bits)

/-- The bytes of a configuration record, in order (section 10.3). -/
def ConfigImage.bytes (m : ConfigImage) : List Byte :=
  [m.ownStation, m.incarnation, m.bitRate, m.grant0, m.grant1, m.grant2, m.grant3, m.retryLimit, m.ackTimeout,
    m.refreshInterval, m.silenceMultiple, m.joinInterval, m.joinAttempts, m.holdDown]

/-- The MOSI bytes with which the host sends a command (section 10.2); none for a row that is no host command. -/
def mosiOf : Instr → Option (List Byte)
  | .configure image => some (0x10 :: image.bytes)
  | .start => some [0x11]
  | .leave => some [0x12]
  | .reset => some [0x1F]
  | .submit d c tag len payload =>
    some (0x20 :: d :: c :: highByte tag :: lowByte tag :: highByte len :: lowByte len :: payload)
  | .cancel tag d => some [0x21, highByte tag, lowByte tag, d]
  | .completions n => some [0x22, n]
  | .take c => some [0x30, c]
  | .peek c => some [0x31, c]
  | .status => some [0x40]
  | .peers p => some [0x41, p]
  | .mask m => some [0x42, m]
  | .unknownCommand code => some [code]
  | .completionRecordRead | .takeComplete | .statusReadClear | .peersReadClear => none
  | .transactionBegin | .transactionEnd | .resetPin _ | .powerOn _ => none
  | .frameBuild | .frameWon | .frameLost _ | .frameCompleted | .frameAborted | .idleBegun | .windowOut => none
  | .frameDiscard _ | .announceReceived _ _ | .joinReceived _ _ _ | .severReceived _ _ _ _ => none
  | .tallyReceived _ _ _ _ => none
  | .messageReceived _ _ _ _ _ _ | .frameAddressedToAnotherStation _ _ | .startBitReceived => none
  | .joinTimerExpiry _ | .holdDownExpiry _ | .silenceExpiry _ | .refreshExpiry _ | .ackTimerExpiry _ | .drained => none

end Sys2Proof
end

