-- ==== Sys2Proof/Config.lean ====
section
/-! DEFINITION. What the part fixes in silicon, and the two values the manual leaves open. -/

namespace Sys2Proof.Config

/-- Receive slots in the pool (R29). -/
abbrev rxSlots : Nat := 240

/-- Transmit slots in the pool (R68). -/
abbrev txSlots : Nat := 32

/-- Bytes the staging buffer holds, and the longest message (R70, R150). -/
abbrev maxPayload : Nat := 500

/-- The consecutive-abort count at which LINE_FAULT is reported (R129). -/
abbrev lineFaultAt : Nat := 8

/-- The highest transmit count a slot records (R69, R92). -/
abbrev maxTransmitCount : Nat := 16

/-- The highest line error count (R133). -/
abbrev maxLineErrors : Nat := 255

/-- The number of messages a valid limit may stand beyond an accepted count (R96). -/
abbrev maxGrant : Nat := 8

/-- FREE VALUE (assumption log 3). The manual does not order the closes of one LEAVE or one MUTED entry among the
peers, nor several timer expiries of one tick (R163, "not ordered"; R4, "either entry may receive either value").
`orderKey draw item` ranks item `item` at the `draw`-th such choice; it has no body, so no statement can rest on an
order. -/
opaque orderKey : Nat → Nat → Nat

/-- FREE VALUE (assumption log 18). While CS is low the station drives MISO (R137), also while it waits after a reset for
CS to rise (R151); the manual does not say with what. `waitingMiso n` is byte `n` of that wait; it has no body, so no
statement can rest on a value. -/
opaque waitingMiso : Nat → Byte

end Sys2Proof.Config
end

