-- ==== Sys2Proof/Machine/State.lean ====
section
/-! DEFINITION. The state of a BX16, block by block in the manual's order of ownership (00_scope, "The part at a
glance"), the reasons a command could stop, and the state after reset. -/

namespace Sys2Proof.Machine

/-! ## Names -/

/-- Station states (R152). -/
inductive StationState where
  | unconfigured
  | configured
  | active
  | leaving
  | muted
deriving DecidableEq, Repr

/-- Peer entry states (R1, section 1.3). -/
inductive PeerState where
  | absent
  | joining
  | opened
  | lost
deriving DecidableEq, Repr

/-- Close reasons, with NONE for "no close yet" and for SENT and CANCELLED completions (R1, R11, section 10.4). -/
inductive CloseReason where
  | none
  | silent
  | unresponsive
  | protocol
  | severed
  | restart
  | left
  | muted
  | joinFailed
deriving DecidableEq, Repr

/-- The reasons a SEVER built by a station carries (R19, section 10.4). -/
inductive SeverReason where
  | silent
  | unresponsive
  | protocol
  | left
  | stale
deriving DecidableEq, Repr

/-- Results of host commands (section 10.4). -/
inductive Result where
  | none
  | ok
  | short
  | unknown
  | wrongState
  | badConfig
  | poolBusy
  | badDest
  | badClass
  | badLength
  | peerDown
  | noSlot
  | inFlight
  | notFound
  | badCount
  | empty
deriving DecidableEq, Repr

/-- Completion statuses (R78). -/
inductive CompletionStatus where
  | sent
  | cancelled
  | dropped
deriving DecidableEq, Repr

/-- The four bit rates, in Mbit/s (R122, R153). -/
inductive BitRate where
  | one
  | two
  | five
  | ten
deriving DecidableEq, Repr

/-- The three fault flags (R160). -/
inductive FaultName where
  | duplicateStation
  | lineFault
  | creditOverrun
deriving DecidableEq, Repr

/-- A timer on the 1 ms time base (R163): stopped, or running with the number of ticks left to its expiry. -/
inductive Timer where
  | stopped
  | running (ticksLeft : Nat)
deriving DecidableEq, Repr

/-! ## Station Control -/

/-- The configuration record in force, its fields as R153 lists them. -/
structure ConfigRecord where
  ownStation : Station
  incarnation : Byte
  bitRate : BitRate
  grants : PerClass Nat
  retryLimit : Nat
  ackTimeout : Nat
  refreshInterval : Nat
  silenceMultiple : Nat
  joinInterval : Nat
  joinAttempts : Nat
  holdDown : Nat
deriving DecidableEq, Repr

/-- The fault flags, each set or clear (R160). -/
structure FaultFlags where
  duplicateStation : Bool
  lineFault : Bool
  creditOverrun : Bool
deriving DecidableEq, Repr

/-- No fault flag set. -/
def FaultFlags.clear : FaultFlags := ⟨false, false, false⟩

/-- What Station Control owns (00_scope; R162). -/
structure StationControl where
  /-- the station state (R152) -/
  station : StationState
  /-- the configuration record in force, if any (R153, R162) -/
  config : Option ConfigRecord
  /-- the counter from which the low half of each tag is drawn (R4) -/
  tagCounter : Byte
  /-- the fault flags (R160) -/
  faults : FaultFlags
  /-- the attention mask (R148) -/
  mask : Byte
deriving DecidableEq, Repr

/-! ## Session Unit -/

/-- One entry of the peer table (R1). -/
structure PeerEntry where
  state : PeerState
  ownTag : Tag
  peerTag : Tag
  joinAttempts : Nat
  changed : Bool
  lastClose : CloseReason
  joinTimer : Timer
  holdDownTimer : Timer
  silenceTimer : Timer
  refreshTimer : Timer
deriving DecidableEq, Repr

/-- The values of an entry position at reset (R3). -/
def PeerEntry.reset : PeerEntry where
  state := .absent
  ownTag := 0
  peerTag := 0
  joinAttempts := 0
  changed := false
  lastClose := .none
  joinTimer := .stopped
  holdDownTimer := .stopped
  silenceTimer := .stopped
  refreshTimer := .stopped

/-! ## Receive Unit -/

/-- A receive slot's number; no host or line value shows it (R29). -/
abbrev RxIx := Fin Config.rxSlots

/-- A message record (R29). -/
structure MsgRecord where
  source : Station
  cls : Cls
  length : Nat
  payload : List Byte
deriving DecidableEq, Repr

/-- A receive slot (R29). -/
inductive RxSlot where
  | free
  | reserved (peer : Station) (cls : Cls)
  | occupied (msg : MsgRecord)
deriving DecidableEq, Repr

/-- A receive record (R33). -/
structure RxRecord where
  accepted : Count
  limit : Count
  reserved : Nat
  occupied : Nat
deriving DecidableEq, Repr

/-- A receive record at reset (R53). -/
def RxRecord.zero : RxRecord := ⟨0, 0, 0, 0⟩

/-- What the Receive Unit owns (00_scope; R53). -/
structure ReceiveUnit where
  /-- the pool of 240 slots (R29) -/
  pool : Vector RxSlot Config.rxSlots
  /-- the receive record of each peer and class (R33) -/
  records : Table (PerClass RxRecord)
  /-- the four receive queues, head first (R54) -/
  queues : PerClass (List RxIx)
deriving DecidableEq, Repr

/-! ## Transmit Unit -/

/-- A transmit slot's number; no host or line value shows it (R68). -/
abbrev TxIx := Fin Config.txSlots

/-- The state of a transmit slot that is not FREE, with the fields present only in it (R68, R69). -/
inductive TxState where
  | queued
  | sending
  | inFlight (seq : Count)
  | done (status : CompletionStatus) (reason : CloseReason)
deriving DecidableEq, Repr

/-- A transmit slot record (R69). -/
structure TxRecord where
  hostTag : BitVec 16
  destination : Station
  cls : Cls
  length : Nat
  /-- released when the slot becomes DONE -/
  payload : List Byte
  transmitCount : Nat
  /-- the place in submission order; without meaning once DONE -/
  order : Nat
  state : TxState
deriving DecidableEq, Repr

/-- A transmit slot (R68). -/
inductive TxSlot where
  | free
  | held (record : TxRecord)
deriving DecidableEq, Repr

/-- One set of send counters (R86). -/
structure SendCounters where
  /-- S, the seq the next first transmission will carry -/
  next : Count
  acked : Count
  /-- L′, the last limit heard -/
  limit : Count
  resend : Option Count
deriving DecidableEq, Repr

/-- The send counters at reset and after every close (R89, R106). -/
def SendCounters.zero : SendCounters := ⟨0, 0, 0, none⟩

/-- The tie of a built MESSAGE to the slot it was built from (R90). -/
structure Tie where
  slot : TxIx
  peer : Station
  cls : Cls
  seq : Count
  /-- a first transmission, or a resend -/
  first : Bool
deriving DecidableEq, Repr

/-- What the Transmit Unit owns (00_scope; R85, R89). -/
structure TransmitUnit where
  /-- the pool of 32 slots (R68) -/
  pool : Vector TxSlot Config.txSlots
  /-- the send queue of each peer and class, head first (R73) -/
  queues : Table (PerClass (List TxIx))
  /-- the in-flight list of each peer and class, head first (R86) -/
  flights : Table (PerClass (List TxIx))
  /-- the send counters of each peer and class (R86) -/
  counters : Table (PerClass SendCounters)
  /-- the ack timer of each peer (R86) -/
  ackTimers : Table Timer
  /-- the retry count of each peer (R86) -/
  retries : Table Nat
  /-- the completion queue, head first (R77) -/
  completions : List TxIx
  /-- the station's sending slot (R74) -/
  sending : Option TxIx
  /-- the tie of the MESSAGE in the outbound buffer; absent for a detached one (R90) -/
  tie : Option Tie
  /-- the next place in submission order (R69, R71) -/
  nextOrder : Nat
deriving DecidableEq, Repr

/-! ## Transmit Arbiter -/

/-- The contents of a SEVER claim (R111). -/
structure SeverClaim where
  srcTag : Tag
  dstTag : Tag
  reason : SeverReason
deriving DecidableEq, Repr

/-- What the frame in hand is: its kind, its peer, and for a SEVER what it carries (R116). -/
inductive HandKind where
  | announce
  | sever (peer : Station) (claim : SeverClaim)
  | join (peer : Station)
  | tally (peer : Station)
  | message (peer : Station)
deriving DecidableEq, Repr

/-- The record of the frame in hand (R116), with its withdrawn mark (R118). -/
structure InHand where
  kind : HandKind
  withdrawn : Bool
deriving DecidableEq, Repr

/-- What the Transmit Arbiter owns (chapter 6; R121). -/
structure Arbiter where
  /-- the ANNOUNCE flag (R110) -/
  announce : Bool
  /-- the SEVER set, at most one claim per peer (R111) -/
  severs : Table (Option SeverClaim)
  /-- the JOIN set (R111) -/
  joins : Table Bool
  /-- the TALLY set (R111) -/
  tallies : Table Bool
  /-- the three set pointers (R113) -/
  severPtr : Station
  joinPtr : Station
  tallyPtr : Station
  /-- the pointer of each class of data (R114) -/
  dataPtrs : PerClass Station
  /-- the yield flag (R115) -/
  yield : Bool
  /-- the frame in hand (R116) -/
  inHand : Option InHand
deriving DecidableEq, Repr

/-! ## Line Unit -/

/-- What the Line Unit is doing while RECEIVING (R124, R125, R132). -/
inductive ReadPhase where
  /-- finding its place after leaving SILENT: it assembles nothing and counts nothing (R125) -/
  | unsynchronized
  /-- reading the gap after an end delimiter or an abort marker; a dominant bit is a start bit (R125) -/
  | gap
  /-- assembling a frame of another station (R131) -/
  | frame
  /-- passing over the rest of a discarded frame until twelve recessive bits (R132) -/
  | passing
deriving DecidableEq, Repr

/-- Line states (R124). -/
inductive LineState where
  | silent
  | idle
  | contending
  | transmitting
  | receiving (phase : ReadPhase)
deriving DecidableEq, Repr

/-- What the Line Unit owns (00_scope; R136). A frame is being assembled exactly in `receiving .frame`; its bits reach
the model whole, with the command that ends it. -/
structure LineUnit where
  state : LineState
  /-- the outbound frame buffer (R116, R136) -/
  outbound : Option Frame
  /-- the consecutive-abort count, 0 to 8 (R129) -/
  aborts : Nat
  /-- the line error count, 0 to 255 (R133) -/
  errors : Nat
  /-- the last the Line Unit did on the line was to drive an abort marker (R126, R127, R130) -/
  marker : Bool
deriving DecidableEq, Repr

/-! ## Host Port -/

/-- The command of the transaction in progress, and how far its effects have come (R140, R143). -/
inductive TxnCommand where
  /-- none taken yet: a transaction that ends so is SHORT (R142) -/
  | none
  /-- the command byte names no command (R141) -/
  | unknown
  /-- a command whose result no later byte can change -/
  | decided (result : Result)
  /-- a TAKE that shows a message: its queue, its fixed head, and whether it has completed (R57, R60) -/
  | take (cls : Cls) (slot : RxIx) (complete : Bool)
  /-- a COMPLETIONS with records fixed: how many are not yet fully clocked out (R80) -/
  | completions (left : Nat)
  /-- a STATUS: the flags and the count its record shows, the flags set since, and whether it was read in full
  (R144, R145) -/
  | status (shown : FaultFlags) (errors : Nat) (since : FaultFlags) (full : Bool)
  /-- a PEERS: the position shown, whether its changed flag was set since, and whether it was read in full
  (R146, R147) -/
  | peers (peer : Station) (since : Bool) (full : Bool)
deriving DecidableEq, Repr

/-- The transaction in progress (R137, R138). -/
structure Transaction where
  /-- the attention summary sampled at CS falling, MISO byte 0 (R139) -/
  summary : Byte
  command : TxnCommand
  /-- MISO from byte 2 on; every byte after it is 0 (R138) -/
  reply : List Byte
deriving DecidableEq, Repr

/-- What the Host Port owns (00_scope; R151). -/
structure HostPort where
  /-- the level of the CS pin -/
  cs : PinLevel
  /-- the level of the RST pin; while it is low the station is held in reset (R161) -/
  rst : PinLevel
  /-- the open transaction, if any; none with CS low is the wait of R151 for CS to rise -/
  txn : Option Transaction
  /-- the previous-result register (R140) -/
  prevResult : Result
  /-- the staging buffer (R150) -/
  staging : List Byte
  /-- the ATTN output: true while asserted, that is pulled low (R149) -/
  attn : Bool
deriving DecidableEq, Repr

/-! ## The machine -/

/-- The state of the station, and the commands waiting for it. -/
structure State where
  control : StationControl
  /-- the peer table (R1) -/
  session : Table PeerEntry
  rx : ReceiveUnit
  tx : TransmitUnit
  arb : Arbiter
  line : LineUnit
  port : HostPort
  /-- the MODEL's own: how many choices the manual leaves open have been drawn (assumption log 3) -/
  draws : Nat
  /-- the MODEL's own: the commands waiting, first in, first out (assumption log 14) -/
  pending : List Instr
deriving DecidableEq, Repr

/-- Why the machine stops with a fault. It has no constructor: the manual gives every command an effect in every state,
and none of them stops the station. Safe: nothing raises it. -/
inductive Fault where
deriving DecidableEq, Repr

/-- Why a command has no meaning. -/
inductive Refusal where
  /-- raised by an arm of `exec` whose command has no meaning yet; safe. No arm raises it now. -/
  | notModelled (mnemonic : String)
deriving DecidableEq, Repr

/-- Station Control at reset (R162). -/
def StationControl.reset : StationControl where
  station := .unconfigured
  config := none
  tagCounter := 1
  faults := .clear
  mask := 0

/-- The peer table at reset (R3). -/
def sessionReset : Table PeerEntry := Vector.replicate 16 .reset

/-- The Receive Unit at reset (R53). -/
def ReceiveUnit.reset : ReceiveUnit where
  pool := Vector.replicate Config.rxSlots .free
  records := Vector.replicate 16 (Vector.replicate 4 .zero)
  queues := Vector.replicate 4 []

/-- The Transmit Unit at reset (R85, R89). -/
def TransmitUnit.reset : TransmitUnit where
  pool := Vector.replicate Config.txSlots .free
  queues := Vector.replicate 16 (Vector.replicate 4 [])
  flights := Vector.replicate 16 (Vector.replicate 4 [])
  counters := Vector.replicate 16 (Vector.replicate 4 .zero)
  ackTimers := Vector.replicate 16 .stopped
  retries := Vector.replicate 16 0
  completions := []
  sending := none
  tie := none
  nextOrder := 0

/-- The Transmit Arbiter at reset (R121). -/
def Arbiter.reset : Arbiter where
  announce := false
  severs := Vector.replicate 16 none
  joins := Vector.replicate 16 false
  tallies := Vector.replicate 16 false
  severPtr := 0
  joinPtr := 0
  tallyPtr := 0
  dataPtrs := Vector.replicate 4 0
  yield := false
  inHand := none

/-- The Line Unit at reset (R136). -/
def LineUnit.reset : LineUnit where
  state := .silent
  outbound := none
  aborts := 0
  errors := 0
  marker := false

/-- The Host Port at reset (R151), with CS and RST high: DESIGN CHOICE, assumption log 11. -/
def HostPort.reset : HostPort where
  cs := .high
  rst := .high
  txn := none
  prevResult := .none
  staging := []
  attn := false

/-- The machine right after reset, as each block's chapter says (R161, R162). -/
def State.reset : State where
  control := .reset
  session := sessionReset
  rx := .reset
  tx := .reset
  arb := .reset
  line := .reset
  port := .reset
  draws := 0
  pending := []

end Sys2Proof.Machine
end

