-- ==== Sys2Proof/Machine/Ops.lean ====
section
/-! DEFINITION. The operations every block shares: reading and writing the fixed tables, distances between counts, the
1 ms timers, the round-robin count, the draw of an order the manual leaves open, and the accessors of the state. -/

namespace Sys2Proof.Machine

/-! ## Tables -/

/-- The entry at `i`. -/
def look {α : Type} {n : Nat} (v : Vector α n) (i : Fin n) : α := v[i.val]

/-- `v` with the entry at `i` replaced. -/
def put {α : Type} {n : Nat} (v : Vector α n) (i : Fin n) (a : α) : Vector α n := v.set i.val a i.isLt

/-- `v` with the entry at `i` changed by `f`. -/
def alter {α : Type} {n : Nat} (v : Vector α n) (i : Fin n) (f : α → α) : Vector α n := put v i (f (look v i))

/-- The entry of a peer and class. -/
def look2 {α : Type} {m n : Nat} (v : Vector (Vector α n) m) (p : Fin m) (c : Fin n) : α := look (look v p) c

/-- `v` with the entry of a peer and class replaced. -/
def put2 {α : Type} {m n : Nat} (v : Vector (Vector α n) m) (p : Fin m) (c : Fin n) (a : α) : Vector (Vector α n) m :=
  put v p (put (look v p) c a)

/-- Every entry changed by `f`. -/
def mapAll {α β : Type} {n : Nat} (f : α → β) (v : Vector α n) : Vector β n := ⟨⟨v.toList.map f⟩, by simp⟩

/-- The lowest index whose entry satisfies `f`. -/
def findIx {α : Type} {n : Nat} (f : α → Bool) (v : Vector α n) : Option (Fin n) :=
  (List.finRange n).find? fun i => f (look v i)

/-- How many entries satisfy `f`. -/
def countIn {α : Type} {n : Nat} (f : α → Bool) (v : Vector α n) : Nat := v.toList.countP f

/-! ## Counts -/

/-- The distance from `a` to `b`: (b − a) mod 256 (00_scope, "Counts and distance"). -/
def dist (a b : Count) : Nat := (b - a).toNat

/-! ## Timers (R163) -/

/-- A timer of `v` ms started afresh: it expires at the (v + 1)-th tick after the start. -/
def Timer.start (v : Nat) : Timer := .running (v + 1)

/-- Is the timer running? -/
def Timer.isRunning : Timer → Bool
  | .stopped => false
  | .running _ => true

/-- One tick of the time base. -/
def Timer.tick : Timer → Timer
  | .running (n + 1) => .running n
  | t => t

/-- Has the timer run out at the tick just given? -/
def Timer.due : Timer → Bool
  | .running 0 => true
  | _ => false

/-- Started if stopped; left running if running (R91, R92). -/
def Timer.startIfStopped (v : Nat) : Timer → Timer
  | .stopped => .start v
  | .running n => .running n

/-! ## Choices -/

/-- The first station satisfying `f`, counting upward from the one after `ptr` and wrapping from 15 to 0 (R113). -/
def nextAfter (ptr : Station) (f : Station → Bool) : Option Station :=
  (stations.map (ptr + 1 + ·)).find? f

/-- The items in the order of draw `n` of the order the manual leaves open (assumption log 3). -/
def inDrawnOrder {α : Type} (n : Nat) (item : α → Nat) (xs : List α) : List α :=
  xs.insertionSort fun a b => Config.orderKey n (item a) ≤ Config.orderKey n (item b)

/-! ## Accessors of the state -/

/-- The record read where none is in force; no rule reads a field then (R162; DESIGN CHOICE, assumption log 12). -/
def ConfigRecord.blank : ConfigRecord where
  ownStation := 0
  incarnation := 0
  bitRate := .one
  grants := Vector.replicate 4 0
  retryLimit := 0
  ackTimeout := 0
  refreshInterval := 0
  silenceMultiple := 0
  joinInterval := 0
  joinAttempts := 0
  holdDown := 0

/-- The configuration record in force. -/
def State.record (s : State) : ConfigRecord := s.control.config.getD .blank

/-- The own station number, if a record is in force (R153, R162). -/
def State.own (s : State) : Option Station := s.control.config.map (·.ownStation)

/-- The peer entry of `p` (R1). -/
def State.entry (s : State) (p : Station) : PeerEntry := look s.session p

/-- `s` with `p`'s entry replaced. -/
def State.setEntry (s : State) (p : Station) (e : PeerEntry) : State := { s with session := put s.session p e }

/-- Is `p`'s session open? -/
def State.isOpen (s : State) (p : Station) : Bool := (s.entry p).state = .opened

/-- Is the station ACTIVE? -/
def State.isActive (s : State) : Bool := s.control.station = .active

/-- `s` in station state `x` (R152). -/
def State.setStation (s : State) (x : StationState) : State :=
  { s with control := { s.control with station := x } }

/-- `s` with the line in state `x` (R124). -/
def State.setLine (s : State) (x : LineState) : State := { s with line := { s.line with state := x } }

/-- `s` with an abort marker the last thing on the line, or not (R127). -/
def State.setMarker (s : State) (b : Bool) : State := { s with line := { s.line with marker := b } }

/-- `s` with the outbound buffer emptied. -/
def State.emptyBuffer (s : State) : State := { s with line := { s.line with outbound := none } }

end Sys2Proof.Machine
end

