-- ==== Sys2Proof/Machine/Flags.lean ====
section
/-! DEFINITION. Every flag the host can see: the fault flags and their read-clear (R145, R160), the changed flags
(R28), the attention summary (R139) and the ATTN output (R149). -/

namespace Sys2Proof.Machine

/-! ## Fault flags -/

/-- The value of one flag. -/
def FaultFlags.get (f : FaultFlags) : FaultName → Bool
  | .duplicateStation => f.duplicateStation
  | .lineFault => f.lineFault
  | .creditOverrun => f.creditOverrun

/-- One flag set; the others as they were (R160). -/
def FaultFlags.set (f : FaultFlags) : FaultName → FaultFlags
  | .duplicateStation => { f with duplicateStation := true }
  | .lineFault => { f with lineFault := true }
  | .creditOverrun => { f with creditOverrun := true }

/-- Is any flag set? -/
def FaultFlags.any (f : FaultFlags) : Bool := f.duplicateStation || f.lineFault || f.creditOverrun

/-- The read-clear: each flag shown set is cleared unless set again since the snapshot (R145). -/
def FaultFlags.readClear (now shown since : FaultFlags) : FaultFlags where
  duplicateStation := now.duplicateStation && !(shown.duplicateStation && !since.duplicateStation)
  lineFault := now.lineFault && !(shown.lineFault && !since.lineFault)
  creditOverrun := now.creditOverrun && !(shown.creditOverrun && !since.creditOverrun)

/-- A fault flag's setting, as a STATUS being read remembers it (R145). -/
def TxnCommand.noteFault (name : FaultName) : TxnCommand → TxnCommand
  | .status shown errors since full => .status shown errors (since.set name) full
  | c => c

/-- A changed flag's setting, as a PEERS being read remembers it (R28, R147). -/
def TxnCommand.noteChanged (p : Station) : TxnCommand → TxnCommand
  | .peers q since full => .peers q (since || q = p) full
  | c => c

/-- The command of the open transaction, changed by `f`. -/
def HostPort.onCommand (f : TxnCommand → TxnCommand) (h : HostPort) : HostPort :=
  { h with txn := h.txn.map fun t => { t with command := f t.command } }

/-- A fault flag is set by its report (R160). -/
def State.setFault (s : State) (name : FaultName) : State :=
  { s with
    control := { s.control with faults := s.control.faults.set name }
    port := s.port.onCommand (.noteFault name) }

/-- An open transaction learns that `p`'s changed flag has been set; the flag itself is the entry's (R28). -/
def State.noteChanged (s : State) (p : Station) : State := { s with port := s.port.onCommand (.noteChanged p) }

/-! ## The attention summary (R139) -/

/-- Is the changed flag of at least one peer entry set? The own position is no peer entry (R2). -/
def State.anyChanged (s : State) : Bool :=
  stations.any fun p => s.own ≠ some p && (s.entry p).changed

/-- Is receive queue `c` nonempty? -/
def State.hasMessage (s : State) (c : Cls) : Bool := !(look s.rx.queues c).isEmpty

/-- The attention summary as it stands: ACT, FAULT, PEER, COMP, RX3 to RX0, bit 7 down to bit 0 (R139, section 10.2). -/
def State.summary (s : State) : Byte :=
  BitVec.ofBool s.isActive ++ BitVec.ofBool s.control.faults.any ++ BitVec.ofBool s.anyChanged ++
    BitVec.ofBool (!s.tx.completions.isEmpty) ++ BitVec.ofBool (s.hasMessage 3) ++ BitVec.ofBool (s.hasMessage 2) ++
    BitVec.ofBool (s.hasMessage 1) ++ BitVec.ofBool (s.hasMessage 0)

/-! ## ATTN (R149) -/

/-- Should ATTN be asserted: is the summary ANDed with the mask nonzero? -/
def State.attnLevel (s : State) : Bool := s.summary &&& s.control.mask ≠ 0

/-- ATTN driven to the level its conditions give. -/
def State.driveAttn (s : State) : State := { s with port := { s.port with attn := s.attnLevel } }

/-- The end of every command: its next state, with ATTN following the event (R149). -/
def done (s : State) : Host.Outcome State Fault Refusal := .next s.driveAttn

end Sys2Proof.Machine
end

