-- ==== Sys2Proof/Machine/Formats.lean ====
section
/-! DEFINITION. The numeric codes and the records of the host port: the code tables of section 10.4, the take header,
the completion, status and peer records of section 10.2, and the MISO bytes of a transaction (R138). -/

namespace Sys2Proof.Machine

/-! ## Codes (section 10.4) -/

/-- Station state codes. -/
def StationState.code : StationState → Byte
  | .unconfigured => 0x00
  | .configured => 0x01
  | .active => 0x02
  | .leaving => 0x03
  | .muted => 0x04

/-- Peer state codes. -/
def PeerState.code : PeerState → Byte
  | .absent => 0x00
  | .joining => 0x01
  | .opened => 0x02
  | .lost => 0x03

/-- Close reason codes. -/
def CloseReason.code : CloseReason → Byte
  | .none => 0x00
  | .silent => 0x01
  | .unresponsive => 0x02
  | .protocol => 0x03
  | .severed => 0x04
  | .restart => 0x05
  | .left => 0x06
  | .muted => 0x07
  | .joinFailed => 0x08

/-- SEVER reason codes; one code space with the close reasons. -/
def SeverReason.code : SeverReason → Byte
  | .silent => 0x01
  | .unresponsive => 0x02
  | .protocol => 0x03
  | .left => 0x06
  | .stale => 0x09

/-- Result codes. -/
def Result.code : Result → Byte
  | .none => 0x00
  | .ok => 0x01
  | .short => 0x02
  | .unknown => 0x03
  | .wrongState => 0x04
  | .badConfig => 0x05
  | .poolBusy => 0x06
  | .badDest => 0x07
  | .badClass => 0x08
  | .badLength => 0x09
  | .peerDown => 0x0A
  | .noSlot => 0x0B
  | .inFlight => 0x0C
  | .notFound => 0x0D
  | .badCount => 0x0E
  | .empty => 0x0F

/-- Completion status codes. -/
def CompletionStatus.code : CompletionStatus → Byte
  | .sent => 0x01
  | .cancelled => 0x02
  | .dropped => 0x03

/-- A count as a byte. -/
def byteOf (n : Nat) : Byte := BitVec.ofNat 8 n

/-- A 16-bit field, most significant byte first (R137). -/
def bytesOf16 (x : BitVec 16) : List Byte := [highByte x, lowByte x]

/-- Fault flags as the status record's byte 1. -/
def FaultFlags.byte (f : FaultFlags) : Byte :=
  0#5 ++ BitVec.ofBool f.creditOverrun ++ BitVec.ofBool f.lineFault ++ BitVec.ofBool f.duplicateStation

/-! ## Records (section 10.2) -/

/-- The take header: source, class, length, remaining (R58). -/
def takeHeader (source cls : Byte) (length remaining : Nat) : List Byte :=
  [source, cls] ++ bytesOf16 (BitVec.ofNat 16 length) ++ [byteOf remaining]

/-- The header of a shown message. -/
def MsgRecord.header (m : MsgRecord) (remaining : Nat) : List Byte :=
  takeHeader (byteOf m.source.val) (byteOf m.cls.val) m.length remaining

/-- The completion record of a DONE slot (R79); a slot that is not DONE has none. -/
def TxRecord.completionRecord (r : TxRecord) : List Byte :=
  match r.state with
  | .done status reason =>
    bytesOf16 r.hostTag ++
      [byteOf r.destination.val, byteOf r.cls.val, status.code, reason.code, byteOf r.transmitCount, 0x00]
  | _ => []

/-- The completion record of slot `i`. -/
def TransmitUnit.completionRecord (tx : TransmitUnit) (i : TxIx) : List Byte :=
  match look tx.pool i with
  | .held r => r.completionRecord
  | .free => []

/-- Is a receive slot FREE? -/
def RxSlot.isFree : RxSlot → Bool
  | .free => true
  | _ => false

/-- Is a receive slot OCCUPIED? -/
def RxSlot.isOccupied : RxSlot → Bool
  | .occupied _ => true
  | _ => false

/-- Is a transmit slot FREE? -/
def TxSlot.isFree : TxSlot → Bool
  | .free => true
  | .held _ => false

/-- The number of FREE receive slots (R52). -/
def ReceiveUnit.freeCount (rx : ReceiveUnit) : Nat := countIn RxSlot.isFree rx.pool

/-- The number of FREE transmit slots (R83). -/
def TransmitUnit.freeCount (tx : TransmitUnit) : Nat := countIn TxSlot.isFree tx.pool

/-- The status record (R144). -/
def State.statusRecord (s : State) : List Byte :=
  [s.control.station.code, s.control.faults.byte, byteOf s.line.errors, byteOf s.tx.freeCount, byteOf s.rx.freeCount] ++
    classes.map (fun c => byteOf (look s.rx.queues c).length) ++ [byteOf s.tx.completions.length]

/-- The class block of the peer record (R146). -/
def State.classBlock (s : State) (p : Station) (c : Cls) : List Byte :=
  let r := look2 s.rx.records p c
  let k := look2 s.tx.counters p c
  [r.accepted, r.limit, byteOf r.reserved, byteOf r.occupied, k.next, k.acked, k.limit,
    byteOf (look2 s.tx.queues p c).length, byteOf (look2 s.tx.flights p c).length]

/-- The peer record of position `p` (R146). -/
def State.peerRecord (s : State) (p : Station) : List Byte :=
  let e := s.entry p
  [e.state.code] ++ bytesOf16 e.ownTag ++ bytesOf16 e.peerTag ++
    [if e.changed then 0x01 else 0x00, e.lastClose.code, byteOf e.joinAttempts, byteOf (look s.tx.retries p)] ++
    classes.flatMap (s.classBlock p)

/-! ## What the host and the line read -/

/-- MISO byte `n` of a transaction: the summary, the previous result, the reply, then 0 (R138 to R140). -/
def HostPort.misoByte (h : HostPort) (t : Transaction) : Nat → Byte
  | 0 => t.summary
  | 1 => h.prevResult.code
  | k + 2 => t.reply.getD k 0

/-- MISO byte `n`; none where MISO is undriven, while CS is high (R137) or RST low (R151, R161). With CS low and no
transaction open the station waits for CS to rise: MISO is driven, with a free value (assumption log 18). -/
def State.miso (s : State) (n : Nat) : Option Byte :=
  if s.port.cs = .low ∧ s.port.rst = .high then
    some (match s.port.txn with
      | some t => s.port.misoByte t n
      | none => Config.waitingMiso n)
  else none

/-- The bits of MISO byte `n`, most significant first (R137). -/
def State.misoBits (s : State) (n : Nat) : Option (List Bool) := (s.miso n).map fieldBits

/-- The run of bits the station has on LTX by its last line event: the frame in its outbound buffer while it contends or
transmits, an abort marker where it last drove one (R123, R126, R127). After the run, and where there is none, LTX is
recessive (section 9.8). -/
def State.ltxBits (s : State) : List Bool :=
  match s.line.state with
  | .contending | .transmitting => (s.line.outbound.map Frame.lineBits).getD []
  | _ => if s.line.marker then abortMarker else []

end Sys2Proof.Machine
end

