-- ==== Sys2Proof/Machine/Operands.lean ====
section
/-! DEFINITION. Every operand form of the host's commands: the configuration record (R153, R167, section 10.3), the class
byte of TAKE and PEEK (R56, R166), station bytes (R71, R75, R165), and counts (R80). -/

namespace Sys2Proof.Machine

/-! ## The configuration record -/

/-- The low four bits of a byte, the rest ignored (R167). -/
def lowNibble (b : Byte) : Nat := (b.extractLsb' 0 4).toNat

/-- The bit rate a code names (R122, section 10.3). -/
def bitRateOf (code : Byte) : Option BitRate :=
  if code = 0x01 then some .one
  else if code = 0x02 then some .two
  else if code = 0x05 then some .five
  else if code = 0x0A then some .ten
  else none

/-- The bit time in ns at a rate (R122). -/
def BitRate.bitTime : BitRate → Nat
  | .one => 1000
  | .two => 500
  | .five => 200
  | .ten => 100

/-- The fields of a record as the part reads them, whatever their values; none for a bit rate code without a rate (R167). -/
def ConfigRecord.read (m : ConfigImage) : Option ConfigRecord :=
  (bitRateOf m.bitRate).map fun rate =>
    { ownStation := Fin.ofNat 16 (lowNibble m.ownStation)
      incarnation := m.incarnation
      bitRate := rate
      grants := #v[lowNibble m.grant0, lowNibble m.grant1, lowNibble m.grant2, lowNibble m.grant3]
      retryLimit := lowNibble m.retryLimit
      ackTimeout := m.ackTimeout.toNat
      refreshInterval := m.refreshInterval.toNat
      silenceMultiple := lowNibble m.silenceMultiple
      joinInterval := m.joinInterval.toNat
      joinAttempts := lowNibble m.joinAttempts
      holdDown := m.holdDown.toNat }

/-- ΣG, the sum of the grants (R30). -/
def ConfigRecord.grantSum (r : ConfigRecord) : Nat := r.grants.toList.sum

/-- Every field in its range, and the grants' sum in 1 to 16 (R153). -/
def ConfigRecord.valid (r : ConfigRecord) : Bool :=
  classes.all (fun c => look r.grants c ≤ 8) && 1 ≤ r.grantSum && r.grantSum ≤ 16 &&
    1 ≤ r.retryLimit && r.retryLimit ≤ 15 && 1 ≤ r.ackTimeout && r.ackTimeout ≤ 255 &&
    5 ≤ r.refreshInterval && r.refreshInterval ≤ 255 && 2 ≤ r.silenceMultiple && r.silenceMultiple ≤ 15 &&
    1 ≤ r.joinInterval && r.joinInterval ≤ 255 && 1 ≤ r.joinAttempts && r.joinAttempts ≤ 15 &&
    1 ≤ r.holdDown && r.holdDown ≤ 255

/-- The valid record a CONFIGURE presents, if it is valid (R153, R167). -/
def validRecord (m : ConfigImage) : Option ConfigRecord :=
  (ConfigRecord.read m).filter (·.valid)

/-- The silence timer's interval in ms (R26, R163). -/
def ConfigRecord.silenceMs (r : ConfigRecord) : Nat := r.silenceMultiple * r.refreshInterval

/-- The hold-down timer's interval in ms (R25, R163). -/
def ConfigRecord.holdDownMs (r : ConfigRecord) : Nat := r.holdDown * 10

/-! ## Single bytes -/

/-- What a TAKE's or PEEK's class byte names (R56, R166). -/
inductive ClassChoice where
  | named (c : Cls)
  | any
  | outOfRange
deriving DecidableEq, Repr

/-- 0x00 to 0x03 name classes, 0xFF is ANY, every other value is out of range (section 10.2, R166). -/
def classChoice (b : Byte) : ClassChoice :=
  if h : b.toNat < 4 then .named ⟨b.toNat, h⟩
  else if b = 0xFF then .any
  else .outOfRange

/-- The station a byte names: 0 to 15 (R71, R75, R146, R165). -/
def stationOf (b : Byte) : Option Station :=
  if h : b.toNat < 16 then some ⟨b.toNat, h⟩ else none

/-- The class a SUBMIT's class byte names (R71). -/
def classOf (b : Byte) : Option Cls :=
  if h : b.toNat < 4 then some ⟨b.toNat, h⟩ else none

end Sys2Proof.Machine
end

