-- ==== Sys2Proof/Machine/ArbiterOps.lean ====
section
/-! DEFINITION. The Transmit Arbiter's shared operations: claims and withdrawals (R110, R111), restoring (R118), leaving
and muting (R119, R120). -/

namespace Sys2Proof.Machine

/-- A JOIN claim for `p`; a claim already there stands (R111). -/
def Arbiter.claimJoin (a : Arbiter) (p : Station) : Arbiter := { a with joins := put a.joins p true }

/-- A TALLY claim for `p`; a claim already there stands (R111). -/
def Arbiter.claimTally (a : Arbiter) (p : Station) : Arbiter := { a with tallies := put a.tallies p true }

/-- A SEVER claim for `p`, replacing a pending one whole (R111). -/
def Arbiter.claimSever (a : Arbiter) (p : Station) (c : SeverClaim) : Arbiter :=
  { a with severs := put a.severs p (some c) }

/-- The frame in hand is withdrawn if it is of this kind (R118). -/
def Arbiter.withdrawHand (a : Arbiter) (k : HandKind) : Arbiter :=
  { a with inHand := a.inHand.map fun h => if h.kind = k then { h with withdrawn := true } else h }

/-- `p` is withdrawn from the JOIN set, a frame in hand included (R10, R13, R118). -/
def Arbiter.withdrawJoin (a : Arbiter) (p : Station) : Arbiter :=
  { a with joins := put a.joins p false }.withdrawHand (.join p)

/-- `p` is withdrawn from the TALLY set, a frame in hand included (R13, R118). -/
def Arbiter.withdrawTally (a : Arbiter) (p : Station) : Arbiter :=
  { a with tallies := put a.tallies p false }.withdrawHand (.tally p)

/-- The ANNOUNCE flag is cleared and an ANNOUNCE in hand withdrawn (R110, R119). -/
def Arbiter.clearAnnounce (a : Arbiter) : Arbiter := { a with announce := false }.withdrawHand .announce

/-- The claim of a frame that ended lost or aborted, put back (R118). -/
def Arbiter.restoreClaim (a : Arbiter) (active : Bool) : HandKind → Arbiter
  | .announce => if active then { a with announce := true } else a
  | .sever p c => if (look a.severs p).isSome then a else a.claimSever p c
  | .join p => a.claimJoin p
  | .tally p => a.claimTally p
  | .message _ => a

/-- The end of the frame in hand by loss or abort: the record ends, and the claim is restored unless withdrawn
(R118). -/
def Arbiter.giveBack (a : Arbiter) (active : Bool) : Arbiter :=
  match a.inHand with
  | none => a
  | some h =>
    if h.withdrawn then { a with inHand := none } else { a with inHand := none }.restoreClaim active h.kind

/-- The arbiter's share of entering MUTED (R120). -/
def Arbiter.mute (a : Arbiter) : Arbiter :=
  { a with
    announce := false
    severs := Vector.replicate 16 none
    joins := Vector.replicate 16 false
    tallies := Vector.replicate 16 false
    yield := false
    inHand := a.inHand.map fun h => { h with withdrawn := true } }

/-- Drained: the SEVER set is empty and no frame is in hand (R119). -/
def Arbiter.isDrained (a : Arbiter) : Bool := stations.all (fun p => (look a.severs p).isNone) && a.inHand.isNone

end Sys2Proof.Machine
end

