-- ==== Sys2Proof/Machine/ReceiveOps.lean ====
section
/-! DEFINITION. The Receive Unit's shared operations: reservation at an open (R35), freeing at a close (R37), acceptance
(R40), release (R45) and the choice of a TAKE or PEEK (R57). -/

namespace Sys2Proof.Machine

/-- The first `k` FREE slots made RESERVED(p, c); which FREE slots are taken cannot be seen (R29, R35; assumption log
4). -/
def reserveSlots (p : Station) (c : Cls) : Nat → List RxSlot → List RxSlot
  | 0, l => l
  | _ + 1, [] => []
  | k + 1, .free :: l => .reserved p c :: reserveSlots p c k l
  | k + 1, x :: l => x :: reserveSlots p c (k + 1) l

theorem reserveSlots_length (p : Station) (c : Cls) (k : Nat) (l : List RxSlot) :
    (reserveSlots p c k l).length = l.length := by
  induction l generalizing k with
  | nil => cases k <;> rfl
  | cons x l ih => cases k with
    | zero => rfl
    | succ k => cases x <;> simp [reserveSlots, ih]

/-- `reserveSlots` on the pool. -/
def reservePool (p : Station) (c : Cls) (k : Nat) (pool : Vector RxSlot Config.rxSlots) :
    Vector RxSlot Config.rxSlots :=
  ⟨⟨reserveSlots p c k pool.toList⟩, by simp [reserveSlots_length]⟩

/-- The reservation of one class with grant `g` (R35, steps 1 to 4). -/
def ReceiveUnit.reserveClass (p : Station) (grants : PerClass Nat) (rx : ReceiveUnit) (c : Cls) : ReceiveUnit :=
  let occ := (look2 rx.records p c).occupied
  let k := look grants c - occ
  { rx with
    records := put2 rx.records p c ⟨0, BitVec.ofNat 8 k, k, occ⟩
    pool := reservePool p c k rx.pool }

/-- The reservation of a session open, class by class (R35). -/
def ReceiveUnit.reserve (rx : ReceiveUnit) (p : Station) (grants : PerClass Nat) : ReceiveUnit :=
  classes.foldl (ReceiveUnit.reserveClass p grants) rx

/-- A slot RESERVED for `p` made FREE; any other slot as it was (R37). -/
def RxSlot.freeIf (p : Station) : RxSlot → RxSlot
  | .reserved q c => if q = p then .free else .reserved q c
  | x => x

/-- The share of a session close of `p` (R37): A, L and reserved 0, occupied unchanged. -/
def ReceiveUnit.freePeer (rx : ReceiveUnit) (p : Station) : ReceiveUnit :=
  { rx with
    pool := mapAll (RxSlot.freeIf p) rx.pool
    records := alter rx.records p (mapAll fun r => ⟨0, 0, 0, r.occupied⟩) }

/-- Is the slot RESERVED(p, c)? -/
def RxSlot.isReserved (p : Station) (c : Cls) (x : RxSlot) : Bool := x = .reserved p c

/-- An acceptance in sequence (R40, steps 1 to 4). -/
def ReceiveUnit.accept (rx : ReceiveUnit) (p : Station) (c : Cls) (payload : List Byte) : ReceiveUnit :=
  match findIx (RxSlot.isReserved p c) rx.pool with
  | none => rx
  | some i =>
    let r := look2 rx.records p c
    { rx with
      pool := put rx.pool i (.occupied ⟨p, c, payload.length, payload⟩)
      records := put2 rx.records p c ⟨r.accepted + 1, r.limit, r.reserved - 1, r.occupied + 1⟩
      queues := alter rx.queues c (· ++ [i]) }

/-- The release of slot `i`, OCCUPIED by `m`, while its source is OPEN or not (R45). -/
def ReceiveUnit.release (rx : ReceiveUnit) (i : RxIx) (m : MsgRecord) (isOpen : Bool) : ReceiveUnit :=
  let r := look2 rx.records m.source m.cls
  if isOpen then
    { rx with
      pool := put rx.pool i (.reserved m.source m.cls)
      records := put2 rx.records m.source m.cls ⟨r.accepted, r.limit + 1, r.reserved + 1, r.occupied - 1⟩ }
  else
    { rx with
      pool := put rx.pool i .free
      records := put2 rx.records m.source m.cls { r with occupied := r.occupied - 1 } }

/-- The message record in slot `i`, if it is OCCUPIED. -/
def ReceiveUnit.message (rx : ReceiveUnit) (i : RxIx) : Option MsgRecord :=
  match look rx.pool i with
  | .occupied m => some m
  | _ => none

/-- The queue a class byte chooses: the named one, or for ANY the lowest-numbered nonempty one (R57). -/
def ReceiveUnit.chosen (rx : ReceiveUnit) : ClassChoice → Option Cls
  | .named c => some c
  | .any => classes.find? fun c => !(look rx.queues c).isEmpty
  | .outOfRange => none

/-- What a TAKE or PEEK shows: queue, head slot, message and remaining count; none when the chosen queue is empty
(R57). -/
def ReceiveUnit.shown (rx : ReceiveUnit) (choice : ClassChoice) : Option (Cls × RxIx × MsgRecord × Nat) :=
  (rx.chosen choice).bind fun c =>
    match look rx.queues c with
    | [] => none
    | i :: rest => (rx.message i).map fun m => (c, i, m, rest.length)

/-- Is any receive slot OCCUPIED (R32)? -/
def ReceiveUnit.anyOccupied (rx : ReceiveUnit) : Bool := rx.pool.toList.any RxSlot.isOccupied

end Sys2Proof.Machine
end

