-- ==== Sys2Proof/Machine/SendOps.lean ====
section
/-! DEFINITION. The Transmit Unit's shared operations: slots and queues (R71, R74, R75, R77), wins, losses and aborts of
a tied MESSAGE (R91 to R95), TALLY processing (R96 to R99), the ack timer (R102) and the send side of a close (R105 to
R107). -/

namespace Sys2Proof.Machine

/-! ## Slots -/

/-- The record of slot `i`, if it is not FREE. -/
def TransmitUnit.slot (tx : TransmitUnit) (i : TxIx) : Option TxRecord :=
  match look tx.pool i with
  | .held r => some r
  | .free => none

/-- Slot `i`'s record changed by `f`; a FREE slot stays FREE. -/
def TransmitUnit.changeSlot (tx : TransmitUnit) (i : TxIx) (f : TxRecord → TxRecord) : TransmitUnit :=
  match look tx.pool i with
  | .held r => { tx with pool := put tx.pool i (.held (f r)) }
  | .free => tx

/-- The record of a slot that has become DONE: its payload is released (R69), and its place in submission order, which no
rule reads any more, is 0: DESIGN CHOICE, assumption log 16. -/
def TxRecord.finished (status : CompletionStatus) (reason : CloseReason) (r : TxRecord) : TxRecord :=
  { r with payload := [], order := 0, state := .done status reason }

/-- Slot `i` becomes DONE at the tail of the completion queue (R77). -/
def TransmitUnit.finish (status : CompletionStatus) (reason : CloseReason) (tx : TransmitUnit) (i : TxIx) :
    TransmitUnit :=
  { tx.changeSlot i (TxRecord.finished status reason) with completions := tx.completions ++ [i] }

/-- The slots become DONE in the order given (R77). -/
def TransmitUnit.finishAll (tx : TransmitUnit) (status : CompletionStatus) (reason : CloseReason) (is : List TxIx) :
    TransmitUnit :=
  is.foldl (TransmitUnit.finish status reason) tx

/-- The first FREE slot; which FREE slot is taken cannot be seen (R68; assumption log 4). -/
def TransmitUnit.freeSlot (tx : TransmitUnit) : Option TxIx := findIx TxSlot.isFree tx.pool

/-- An accepted SUBMIT: slot `i` becomes QUEUED at the tail of its send queue (R71, steps 1 to 4). -/
def TransmitUnit.enqueue (tx : TransmitUnit) (i : TxIx) (p : Station) (c : Cls) (hostTag : BitVec 16)
    (payload : List Byte) : TransmitUnit :=
  { tx with
    pool := put tx.pool i (.held ⟨hostTag, p, c, payload.length, payload, 0, tx.nextOrder, .queued⟩)
    queues := put2 tx.queues p c (look2 tx.queues p c ++ [i])
    nextOrder := tx.nextOrder + 1 }

/-- Does a record carry this host tag and destination? -/
def TxRecord.named (hostTag : BitVec 16) (p : Station) (r : TxRecord) : Bool := r.hostTag = hostTag ∧ r.destination = p

/-- The earlier in submission order of two slots. -/
def earlier (a b : TxIx × TxRecord) : TxIx × TxRecord := if b.2.order < a.2.order then b else a

/-- The QUEUED slot with this host tag and destination that is earliest in submission order (R75, step 2). -/
def TransmitUnit.oldestQueued (tx : TransmitUnit) (hostTag : BitVec 16) (p : Station) : Option (TxIx × TxRecord) :=
  ((List.finRange Config.txSlots).filterMap fun i =>
      (tx.slot i).bind fun r => if r.named hostTag p ∧ r.state = .queued then some (i, r) else none).foldl
    (fun best x => some (match best with | none => x | some b => earlier b x)) none

/-- Is the slot's message built or on the line? -/
def TxState.isUnderWay : TxState → Bool
  | .sending | .inFlight _ => true
  | _ => false

/-- Does a SENDING or IN_FLIGHT slot carry this host tag and destination (R75, step 3)? -/
def TransmitUnit.underWay (tx : TransmitUnit) (hostTag : BitVec 16) (p : Station) : Bool :=
  (List.finRange Config.txSlots).any fun i =>
    match tx.slot i with
    | some r => r.named hostTag p && r.state.isUnderWay
    | none => false

/-- Slot `i` leaves the send queue of (p, c) from wherever it stands (R73, R75). -/
def TransmitUnit.unqueue (tx : TransmitUnit) (p : Station) (c : Cls) (i : TxIx) : TransmitUnit :=
  { tx with queues := put2 tx.queues p c ((look2 tx.queues p c).erase i) }

/-- Slot `i`, QUEUED for (p, c), is withdrawn: it leaves its send queue and becomes DONE, CANCELLED, with reason NONE and
transmit count 0 (R75, step 2). -/
def TransmitUnit.withdraw (tx : TransmitUnit) (p : Station) (c : Cls) (i : TxIx) : TransmitUnit :=
  ((tx.unqueue p c i).changeSlot i fun r => { r with transmitCount := 0 }).finish .cancelled .none i

/-- The head of the completion queue becomes FREE and leaves it (R80). -/
def TransmitUnit.popCompletion (tx : TransmitUnit) : TransmitUnit :=
  match tx.completions with
  | [] => tx
  | i :: rest => { tx with pool := put tx.pool i .free, completions := rest }

/-! ## Eligibility -/

/-- The credit of (p, c): the distance from S to L′ (R87). -/
def TransmitUnit.credit (tx : TransmitUnit) (p : Station) (c : Cls) : Nat :=
  let k := look2 tx.counters p c
  dist k.next k.limit

/-- Does slot `i` carry seq `q` in flight? -/
def TransmitUnit.carries (tx : TransmitUnit) (q : Count) (i : TxIx) : Bool :=
  match tx.slot i with
  | some r => r.state = .inFlight q
  | none => false

/-- The IN_FLIGHT slot at the resend point of (p, c), with that seq (R87). -/
def TransmitUnit.dueSlot (tx : TransmitUnit) (p : Station) (c : Cls) : Option (TxIx × Count) :=
  (look2 tx.counters p c).resend.bind fun q => ((look2 tx.flights p c).find? (tx.carries q)).map fun i => (i, q)

/-- The head of the send queue of (p, c) when it may be sent on credit: no resend point present, credit above 0 (R87,
R114). -/
def TransmitUnit.eligibleHead (tx : TransmitUnit) (p : Station) (c : Cls) : Option TxIx :=
  if (look2 tx.counters p c).resend = none ∧ 0 < tx.credit p c then (look2 tx.queues p c).head? else none

/-! ## A MESSAGE on the line -/

/-- The head of the send queue of (p, c) becomes SENDING and is tied to its frame (R74, R90). -/
def TransmitUnit.tieFirst (tx : TransmitUnit) (p : Station) (c : Cls) (i : TxIx) : TransmitUnit :=
  { tx.changeSlot i (fun r => { r with state := .sending }) with
    queues := put2 tx.queues p c (look2 tx.queues p c).tail
    sending := some i
    tie := some ⟨i, p, c, (look2 tx.counters p c).next, true⟩ }

/-- A resend's frame is tied to its IN_FLIGHT slot, which does not move (R90). -/
def TransmitUnit.tieResend (tx : TransmitUnit) (p : Station) (c : Cls) (i : TxIx) (q : Count) : TransmitUnit :=
  { tx with tie := some ⟨i, p, c, q, false⟩ }

/-- A tied first transmission is won (R91). -/
def TransmitUnit.winFirst (tx : TransmitUnit) (t : Tie) (ackTimeout : Nat) : TransmitUnit :=
  let k := look2 tx.counters t.peer t.cls
  { tx.changeSlot t.slot (fun r => { r with state := .inFlight k.next, transmitCount := 1 }) with
    flights := put2 tx.flights t.peer t.cls (look2 tx.flights t.peer t.cls ++ [t.slot])
    counters := put2 tx.counters t.peer t.cls { k with next := k.next + 1 }
    ackTimers := alter tx.ackTimers t.peer (.startIfStopped ackTimeout)
    sending := none }

/-- The resend point after the win of seq `q` (R92, step 2). -/
def SendCounters.afterResendWon (k : SendCounters) (q : Count) : SendCounters :=
  if k.resend = some q then { k with resend := if q + 1 = k.next then none else some (q + 1) } else k

/-- A tied resend is won (R92). -/
def TransmitUnit.winResend (tx : TransmitUnit) (t : Tie) (ackTimeout : Nat) : TransmitUnit :=
  { tx.changeSlot t.slot (fun r => { r with transmitCount := min Config.maxTransmitCount (r.transmitCount + 1) }) with
    counters := put2 tx.counters t.peer t.cls ((look2 tx.counters t.peer t.cls).afterResendWon t.seq)
    ackTimers := alter tx.ackTimers t.peer (.startIfStopped ackTimeout) }

/-- A MESSAGE frame is won: its tied slot takes R91 or R92; a detached frame changes nothing (R95). -/
def TransmitUnit.won (tx : TransmitUnit) (ackTimeout : Nat) : TransmitUnit :=
  match tx.tie with
  | none => tx
  | some t => if t.first then tx.winFirst t ackTimeout else tx.winResend t ackTimeout

/-- A MESSAGE frame is lost: a tied first transmission's slot returns to the head of its send queue (R93); a tied
resend or a detached frame changes no slot (R93, R95). -/
def TransmitUnit.lost (tx : TransmitUnit) : TransmitUnit :=
  match tx.tie with
  | none => tx
  | some t =>
    if t.first then
      { tx.changeSlot t.slot (fun r => { r with state := .queued, transmitCount := 0 }) with
        queues := put2 tx.queues t.peer t.cls (t.slot :: look2 tx.queues t.peer t.cls)
        sending := none
        tie := none }
    else { tx with tie := none }

/-- The resend point after the abort of seq `q`: set to `q` if absent or later (R94). -/
def SendCounters.afterAbort (k : SendCounters) (q : Count) : SendCounters :=
  match k.resend with
  | none => { k with resend := some q }
  | some r => if dist k.acked q < dist k.acked r then { k with resend := some q } else k

/-- A MESSAGE frame is aborted: a tied one sets the resend point of its class (R94); a detached one changes nothing
(R95). -/
def TransmitUnit.aborted (tx : TransmitUnit) : TransmitUnit :=
  match tx.tie with
  | none => tx
  | some t =>
    { tx with
      counters := put2 tx.counters t.peer t.cls ((look2 tx.counters t.peer t.cls).afterAbort t.seq)
      tie := none }

/-! ## TALLY processing -/

/-- Is one class's pair in range (R96, conditions 1 and 2)? -/
def SendCounters.admits (k : SendCounters) (t : TallyPair) : Bool :=
  dist k.acked t.accepted ≤ dist k.acked k.next ∧
    dist t.accepted k.next ≤ dist t.accepted t.limit ∧ dist t.accepted t.limit ≤ Config.maxGrant

/-- A TALLY is valid when every class's pair is in range (R96). -/
def TransmitUnit.tallyValid (tx : TransmitUnit) (p : Station) (pairs : PerClass TallyPair) : Bool :=
  classes.all fun c => (look2 tx.counters p c).admits (look pairs c)

/-- Does slot `i`'s seq lie before `a`, measured from `acked` (R98)? -/
def TransmitUnit.liesBefore (tx : TransmitUnit) (acked a : Count) (i : TxIx) : Bool :=
  match tx.slot i with
  | some r => match r.state with
    | .inFlight q => dist acked q < dist acked a
    | _ => false
  | none => false

/-- The resend point after a valid TALLY (R98, step 3), measured from the acked held before it. -/
def SendCounters.afterTally (k : SendCounters) (t : TallyPair) (nowEmpty : Bool) : SendCounters where
  next := k.next
  acked := t.accepted
  limit := t.limit
  resend :=
    if nowEmpty then none
    else k.resend.map fun r => if dist k.acked r < dist k.acked t.accepted then t.accepted else r

/-- A valid TALLY applied in one class (R98, steps 1 to 3). -/
def TransmitUnit.applyClass (p : Station) (pairs : PerClass TallyPair) (tx : TransmitUnit) (c : Cls) : TransmitUnit :=
  let k := look2 tx.counters p c
  let t := look pairs c
  let list := look2 tx.flights p c
  let rest := list.filter fun i => !tx.liesBefore k.acked t.accepted i
  { tx.finishAll .sent .none (list.filter (tx.liesBefore k.acked t.accepted)) with
    flights := put2 tx.flights p c rest
    counters := put2 tx.counters p c (k.afterTally t rest.isEmpty) }

/-- Is anything in flight to `p`? -/
def TransmitUnit.anyInFlight (tx : TransmitUnit) (p : Station) : Bool :=
  classes.any fun c => !(look2 tx.flights p c).isEmpty

/-- Does some class's acked advance (R99)? -/
def TransmitUnit.advances (tx : TransmitUnit) (p : Station) (pairs : PerClass TallyPair) : Bool :=
  classes.any fun c => (look2 tx.counters p c).acked ≠ (look pairs c).accepted

/-- A valid TALLY applied, class by class, then the retry count and the ack timer (R98, R99). -/
def TransmitUnit.applyTally (tx : TransmitUnit) (p : Station) (pairs : PerClass TallyPair) (ackTimeout : Nat) :
    TransmitUnit :=
  let t := classes.foldl (TransmitUnit.applyClass p pairs) tx
  if tx.advances p pairs then
    { t with
      retries := put t.retries p 0
      ackTimers := put t.ackTimers p (if t.anyInFlight p then .start ackTimeout else .stopped) }
  else t

/-! ## The ack timer -/

/-- The resend point of a class at an expiry: acked where messages are in flight (R102, steps 2 and 3). -/
def TransmitUnit.goBack (p : Station) (tx : TransmitUnit) (c : Cls) : TransmitUnit :=
  if (look2 tx.flights p c).isEmpty then tx
  else
    let k := look2 tx.counters p c
    { tx with counters := put2 tx.counters p c { k with resend := some k.acked } }

/-- `p`'s ack timer stopped. -/
def TransmitUnit.stopAck (tx : TransmitUnit) (p : Station) : TransmitUnit :=
  { tx with ackTimers := put tx.ackTimers p .stopped }

/-- An expiry below the retry limit (R102, steps 1 to 4). -/
def TransmitUnit.retry (tx : TransmitUnit) (p : Station) : TransmitUnit :=
  classes.foldl (TransmitUnit.goBack p) { tx with retries := alter tx.retries p (· + 1) }

/-! ## The send side of a close -/

/-- The sending slot, if it is destined for `p` in class `c` (R105, R107). -/
def TransmitUnit.sendingFor (tx : TransmitUnit) (p : Station) (c : Cls) : Option TxIx :=
  tx.sending.filter fun i =>
    match tx.slot i with
    | some r => r.destination = p ∧ r.cls = c
    | none => false

/-- A close other than RESTART, in one class: in-flight, SENDING and QUEUED slots DROPPED, in that order (R105). -/
def TransmitUnit.dropClass (p : Station) (reason : CloseReason) (tx : TransmitUnit) (c : Cls) : TransmitUnit :=
  let hit := tx.sendingFor p c
  let doomed := look2 tx.flights p c ++ hit.toList ++ look2 tx.queues p c
  { tx.finishAll .dropped reason doomed with
    flights := put2 tx.flights p c []
    queues := put2 tx.queues p c []
    sending := if hit.isSome then none else tx.sending }

/-- The SENDING slot returned to QUEUED by a RESTART close (R107, step 2). -/
def TransmitUnit.returnSending (tx : TransmitUnit) (p : Station) (c : Cls) (i : TxIx) : TransmitUnit :=
  { tx.changeSlot i (fun r => { r with state := .queued, transmitCount := 0 }) with
    queues := put2 tx.queues p c (i :: look2 tx.queues p c)
    sending := none }

/-- A RESTART close, in one class: in-flight slots DROPPED, the SENDING slot back at the head, QUEUED slots kept
(R107). -/
def TransmitUnit.restartClass (p : Station) (tx : TransmitUnit) (c : Cls) : TransmitUnit :=
  let t := { tx.finishAll .dropped .restart (look2 tx.flights p c) with flights := put2 tx.flights p c [] }
  match tx.sendingFor p c with
  | some i => t.returnSending p c i
  | none => t

/-- Counters, resend points, ack timer and retry count of `p` at 0 (R106). -/
def TransmitUnit.zeroPeer (tx : TransmitUnit) (p : Station) : TransmitUnit :=
  { tx with
    counters := put tx.counters p (Vector.replicate 4 .zero)
    ackTimers := put tx.ackTimers p .stopped
    retries := put tx.retries p 0 }

/-- A frame tied to a slot of `p` is detached (R90). -/
def TransmitUnit.detach (tx : TransmitUnit) (p : Station) : TransmitUnit :=
  { tx with tie := tx.tie.filter fun t => t.peer ≠ p }

/-- The slots' part of a close: R107 for RESTART, R105 for every other reason. -/
def TransmitUnit.closeSlots (tx : TransmitUnit) (p : Station) (reason : CloseReason) : TransmitUnit :=
  if reason = .restart then classes.foldl (TransmitUnit.restartClass p) tx
  else classes.foldl (TransmitUnit.dropClass p reason) tx

/-- The Transmit Unit's share of a session close of `p` (R12, R105 to R107). -/
def TransmitUnit.closePeer (tx : TransmitUnit) (p : Station) (reason : CloseReason) : TransmitUnit :=
  ((tx.closeSlots p reason).detach p).zeroPeer p

end Sys2Proof.Machine
end

