-- ==== Sys2Proof/Machine/SessionOps.lean ====
section
/-! DEFINITION. The Session Unit's shared operations: claims, tag draws (R4), fresh JOINING (R9), opening (R10), closing
(R11 to R14), stale frames (R19), matching (R5), and the closes of all entries that LEAVE and MUTED order (R14). -/

namespace Sys2Proof.Machine

/-! ## Claims -/

/-- A JOIN claim for `p` is posted. -/
def State.claimJoin (s : State) (p : Station) : State := { s with arb := s.arb.claimJoin p }

/-- A TALLY claim for `p` is posted. -/
def State.claimTally (s : State) (p : Station) : State := { s with arb := s.arb.claimTally p }

/-- A SEVER claim for `p` is posted. -/
def State.claimSever (s : State) (p : Station) (c : SeverClaim) : State := { s with arb := s.arb.claimSever p c }

/-- The answer to a stale frame: a SEVER claim with the frame's tags swapped (R19). -/
def State.staleSever (s : State) (p : Station) (srcTag dstTag : Tag) : State :=
  s.claimSever p ⟨dstTag, srcTag, .stale⟩

/-! ## Tags -/

/-- The value after a draw: from 255 to 1, otherwise one more (R4, step 2). -/
def nextTagCounter (n : Byte) : Byte := if n = 255 then 1 else n + 1

/-- The tag a draw gives: incarnation × 256 plus the tag counter (R4, step 1). -/
def State.drawnTag (s : State) : Tag := s.record.incarnation ++ s.control.tagCounter

/-- The counter's advance at a draw (R4). -/
def State.advanceTags (s : State) : State :=
  { s with control := { s.control with tagCounter := nextTagCounter s.control.tagCounter } }

/-- Does a TALLY, MESSAGE or SEVER with these tags match the entry (R5)? -/
def PeerEntry.matchesTags (e : PeerEntry) (srcTag dstTag : Tag) : Bool :=
  e.ownTag ≠ 0 ∧ e.peerTag ≠ 0 ∧ srcTag = e.peerTag ∧ dstTag = e.ownTag

/-- Does a JOIN with this your tag return the entry's own tag (R5)? -/
def PeerEntry.returnedBy (e : PeerEntry) (yourTag : Tag) : Bool := yourTag = e.ownTag ∧ e.ownTag ≠ 0

/-! ## Fresh JOINING and opening -/

/-- An entry as a fresh JOINING makes it (R9, steps 1 to 6). -/
def PeerEntry.freshJoining (e : PeerEntry) (ownTag peerTag : Tag) (joinMs : Nat) : PeerEntry :=
  { e with
    state := .joining
    ownTag := ownTag
    peerTag := peerTag
    joinAttempts := 1
    joinTimer := .start joinMs
    holdDownTimer := .stopped
    silenceTimer := .stopped
    refreshTimer := .stopped }

/-- A fresh JOINING of `p`'s entry (R9). -/
def State.freshJoining (s : State) (p : Station) (peerTag : Tag) : State :=
  ((s.setEntry p ((s.entry p).freshJoining s.drawnTag peerTag s.record.joinInterval)).advanceTags).claimJoin p

/-- An entry as its opening makes it (R10, steps 1 to 3). -/
def PeerEntry.openedWith (e : PeerEntry) (silenceMs refreshMs : Nat) : PeerEntry :=
  { e with
    state := .opened
    changed := true
    joinTimer := .stopped
    silenceTimer := .start silenceMs
    refreshTimer := .start refreshMs }

/-- A JOINING entry opens (R10). -/
def State.openSession (s : State) (p : Station) : State :=
  let s1 := (s.setEntry p ((s.entry p).openedWith s.record.silenceMs s.record.refreshInterval)).noteChanged p
  let s2 := { s1 with rx := s1.rx.reserve p s.record.grants, arb := s1.arb.withdrawJoin p }
  s2.claimTally p

/-! ## Closing -/

/-- The state a close takes an entry to (R11's table). -/
def closeDestination (reason : CloseReason) (from_ : PeerState) : PeerState :=
  match reason with
  | .silent | .unresponsive | .protocol => .lost
  | .severed => if from_ = .opened then .lost else .absent
  | .restart => .joining
  | _ => .absent

/-- The reason of the SEVER a close claims, where R11's table says yes. -/
def closeSever (reason : CloseReason) (from_ : PeerState) : Option SeverReason :=
  match reason with
  | .silent => some .silent
  | .unresponsive => some .unresponsive
  | .protocol => some .protocol
  | .left => if from_ = .joining ∨ from_ = .opened then some .left else none
  | _ => none

/-- An entry as a close makes it (R11, steps 2 to 5). -/
def PeerEntry.closed (e : PeerEntry) (reason : CloseReason) (holdDownMs : Nat) : PeerEntry :=
  let dest := closeDestination reason e.state
  { e with
    state := dest
    ownTag := 0
    peerTag := 0
    changed := true
    lastClose := reason
    joinTimer := .stopped
    holdDownTimer := if dest = .lost then .start holdDownMs else .stopped
    silenceTimer := .stopped
    refreshTimer := .stopped }

/-- The arbiter's share of a close: withdrawals, then the SEVER claim with the tags before it (R13). -/
def Arbiter.closePeer (a : Arbiter) (p : Station) (e : PeerEntry) (reason : CloseReason) : Arbiter :=
  let b := (a.withdrawTally p).withdrawJoin p
  match closeSever reason e.state with
  | some r => b.claimSever p ⟨e.ownTag, e.peerTag, r⟩
  | none => b

/-- A session close of `p`'s entry (R11 to R13). For RESTART the fresh JOINING follows (`restartSession`). -/
def State.closeSession (s : State) (reason : CloseReason) (p : Station) : State :=
  let s1 := (s.setEntry p ((s.entry p).closed reason s.record.holdDownMs)).noteChanged p
  { s1 with
    rx := s1.rx.freePeer p
    tx := s1.tx.closePeer p reason
    arb := s1.arb.closePeer p (s.entry p) reason }

/-- A close with reason RESTART and the fresh JOINING that follows it (R11, R13). -/
def State.restartSession (s : State) (p : Station) (peerTag : Tag) : State :=
  (s.closeSession .restart p).freshJoining p peerTag

/-- A close requested by another block, carried out if the entry is OPEN with the tags of the request (R14). -/
def State.requestClose (s : State) (reason : CloseReason) (p : Station) (ownTag peerTag : Tag) : State :=
  let e := s.entry p
  if e.state = .opened ∧ e.ownTag = ownTag ∧ e.peerTag = peerTag then s.closeSession reason p else s

/-- The entries in JOINING, OPEN or LOST. -/
def State.liveEntries (s : State) : List Station := stations.filter fun p => (s.entry p).state ≠ .absent

/-- Every entry that is not ABSENT closed (R14); the order among peers is not the manual's, so it is drawn (assumption
log 3). -/
def State.closeAll (s : State) (reason : CloseReason) : State :=
  (inDrawnOrder s.draws Fin.val s.liveEntries).foldl (fun t p => t.closeSession reason p)
    { s with draws := s.draws + 1 }

/-! ## Frames handed on -/

/-- The heard update: an OPEN entry's silence timer is started (R8). -/
def State.heard (s : State) (p : Station) : State :=
  let e := s.entry p
  if e.state = .opened then s.setEntry p { e with silenceTimer := .start s.record.silenceMs } else s

/-- A valid or invalid TALLY on an OPEN session (R96 to R99); an invalid one requests a PROTOCOL close (R97). -/
def State.processTally (s : State) (p : Station) (pairs : PerClass TallyPair) : State :=
  if s.tx.tallyValid p pairs then { s with tx := s.tx.applyTally p pairs s.record.ackTimeout }
  else s.requestClose .protocol p (s.entry p).ownTag (s.entry p).peerTag

/-- A matching MESSAGE on an OPEN session: accepted, a credit overrun, or a duplicate or gap; each posts a TALLY claim
(R39 to R42). -/
def State.receiveMessage (s : State) (p : Station) (c : Cls) (seq : Count) (payload : List Byte) : State :=
  let r := look2 s.rx.records p c
  let s1 :=
    if seq = r.accepted then
      if 0 < r.reserved then { s with rx := s.rx.accept p c payload } else s.setFault .creditOverrun
    else s
  s1.claimTally p

end Sys2Proof.Machine
end

