-- ==== Sys2Proof/Machine/LineOps.lean ====
section
/-! DEFINITION. The Line Unit's and Transmit Arbiter's shared operations on the whole station: the end of a frame by
loss or abort (R118, R126, R127), going SILENT (R130), entering MUTED (R158), the consecutive-abort count (R129),
selection and building (R112 to R116), and what lets a frame of another station be read (R125, R126). -/

namespace Sys2Proof.Machine

/-! ## The end of a frame of this station -/

/-- The notice frame lost: the arbiter restores the claim (R118) and the Transmit Unit takes its slot back (R93). -/
def State.lostNotice (s : State) : State := { s with arb := s.arb.giveBack s.isActive, tx := s.tx.lost }

/-- The notice frame aborted (R94, R118). -/
def State.abortedNotice (s : State) : State := { s with arb := s.arb.giveBack s.isActive, tx := s.tx.aborted }

/-- The idle period ends with a start bit, which clears the yield flag (R115, R125). -/
def State.idleEnded (s : State) : State := { s with arb := { s.arb with yield := false } }

/-- The line goes SILENT: a frame in hand is broken off with its notice, one that has won with the abort marker, and the
buffer is emptied (R130). A marker already driven stays the last thing on the line: DEDUCED, assumption log 20. -/
def State.goSilent (s : State) : State :=
  let s1 := match s.line.state with
    | .contending => s.lostNotice
    | .transmitting => s.abortedNotice.setMarker true
    | _ => s
  s1.emptyBuffer.setLine .silent

/-! ## MUTED -/

/-- A LINE_FAULT or DUPLICATE_STATION report at Station Control: flag, MUTED, the closes, the arbiter's share and the
silent line; while already MUTED, the flag alone (R158). In the states whose line is SILENT no report can arise (DESIGN
CHOICE, assumption log 12). -/
def State.reportFault (s : State) (name : FaultName) : State :=
  match s.control.station with
  | .active | .leaving =>
    let s1 := ((s.setFault name).setStation .muted).closeAll .muted
    { s1 with arb := s1.arb.mute }.goSilent
  | .muted => s.setFault name
  | _ => s

/-- The consecutive-abort count raised by one; the eighth reports LINE_FAULT, after the failure's own notice (R129; DESIGN
CHOICE, assumption log 15). -/
def State.raiseAborts (s : State) : State :=
  let n := min Config.lineFaultAt (s.line.aborts + 1)
  let s1 := { s with line := { s.line with aborts := n } }
  if n = Config.lineFaultAt then s1.reportFault .lineFault else s1

/-! ## Selection and building -/

/-- What a selection offers (R112, R114). -/
inductive Choice where
  | announce
  | sever (peer : Station) (claim : SeverClaim)
  | join (peer : Station)
  | tally (peer : Station)
  | first (peer : Station) (cls : Cls) (slot : TxIx)
  | resend (peer : Station) (cls : Cls) (slot : TxIx) (seq : Count)
deriving DecidableEq, Repr

/-- What peer `p` has sendable in class `c` (R114): a due resend, or an eligible head. -/
def State.sendable (s : State) (p : Station) (c : Cls) : Option Choice :=
  if s.isOpen p then
    match s.tx.dueSlot p c with
    | some (i, q) => some (.resend p c i q)
    | none => (s.tx.eligibleHead p c).map (.first p c)
  else none

/-- Data selection: classes in order, within a class the first peer after the class's pointer (R114). -/
def State.selectData (s : State) : Option Choice :=
  classes.findSome? fun c =>
    (nextAfter (look s.arb.dataPtrs c) fun p => (s.sendable p c).isSome).bind fun p => s.sendable p c

/-- The SEVER a selection serves (R112, R113). -/
def State.selectSever (s : State) : Option Choice :=
  (nextAfter s.arb.severPtr fun p => (look s.arb.severs p).isSome).bind fun p =>
    (look s.arb.severs p).map (.sever p)

/-- The order of R112. -/
def State.select (s : State) : Option Choice :=
  if s.isActive then
    if s.arb.announce then some .announce
    else s.selectSever <|> (nextAfter s.arb.joinPtr (look s.arb.joins)).map .join <|>
      (nextAfter s.arb.tallyPtr (look s.arb.tallies)).map .tally <|> (if s.arb.yield then none else s.selectData)
  else s.selectSever

/-- The own station number as a frame's source (R116). -/
def State.source (s : State) : Station := s.record.ownStation

/-- The frame a choice builds, its contents sampled now (R49, R90, R116). -/
def State.frameOf (s : State) : Choice → Frame
  | .announce => .announce s.source s.record.incarnation
  | .sever p c => .sever s.source p c.srcTag c.dstTag c.reason.code
  | .join p => .join s.source p (s.entry p).ownTag (s.entry p).peerTag
  | .tally p => .tally s.source p (s.entry p).ownTag (s.entry p).peerTag
      (mapAll (fun r => ⟨r.accepted, r.limit⟩) (look s.rx.records p))
  | .first p c i => .message s.source p (s.entry p).ownTag (s.entry p).peerTag c (look2 s.tx.counters p c).next
      (((s.tx.slot i).map (·.payload)).getD [])
  | .resend p c i q => .message s.source p (s.entry p).ownTag (s.entry p).peerTag c q
      (((s.tx.slot i).map (·.payload)).getD [])

/-- The arbiter at a build: the claim taken, the pointer moved, the frame recorded in hand (R113, R114, R116). -/
def Arbiter.take (a : Arbiter) : Choice → Arbiter
  | .announce => { a with announce := false, inHand := some ⟨.announce, false⟩ }
  | .sever p c => { a with severs := put a.severs p none, severPtr := p, inHand := some ⟨.sever p c, false⟩ }
  | .join p => { a with joins := put a.joins p false, joinPtr := p, inHand := some ⟨.join p, false⟩ }
  | .tally p => { a with tallies := put a.tallies p false, tallyPtr := p, inHand := some ⟨.tally p, false⟩ }
  | .first p c _ => { a with dataPtrs := put a.dataPtrs c p, inHand := some ⟨.message p, false⟩ }
  | .resend p c _ _ => { a with dataPtrs := put a.dataPtrs c p, inHand := some ⟨.message p, false⟩ }

/-- The Transmit Unit at a build: a MESSAGE is tied to its slot, a control frame to none (R74, R90). -/
def TransmitUnit.take (tx : TransmitUnit) : Choice → TransmitUnit
  | .first p c i => tx.tieFirst p c i
  | .resend p c i q => tx.tieResend p c i q
  | _ => { tx with tie := none }

/-- A build: the frame stands in the outbound buffer and the line is CONTENDING (R116, R126). -/
def State.build (s : State) (ch : Choice) : State :=
  { s with
    tx := s.tx.take ch
    arb := s.arb.take ch
    line := { s.line with outbound := some (s.frameOf ch), state := .contending } }

/-- May a selection take place (R112)? -/
def State.maySelect (s : State) : Bool :=
  (s.control.station = .active ∨ s.control.station = .leaving) ∧ s.line.state = .idle ∧ s.line.outbound = none

/-- A selection, and the build of the first frame it finds (R112). -/
def State.selectAndBuild (s : State) : State :=
  if s.maySelect then
    match s.select with
    | some ch => s.build ch
    | none => s
  else s

/-! ## Reading another station -/

/-- The frame in hand is lost, and the line reads on in `phase` (R126). The yield flag clears with the start bit that came
before: DEDUCED, assumption log 9. -/
def State.loseFrame (s : State) (phase : ReadPhase) : State :=
  (s.idleEnded.lostNotice.emptyBuffer).setLine (.receiving phase)

/-- The station as it assembles a frame of another station, from its start bit on; none where it assembles none: SILENT,
TRANSMITTING, unsynchronized after START, or passing over a discarded frame (R124 to R126, R132). A start bit on an
IDLE line ends the idle period; one that comes while CONTENDING is another station's earlier start, and the frame in
hand is lost; one in the gap comes after the abort marker, where one was driven. DEDUCED, assumption log 7. -/
def State.reading (s : State) : Option State :=
  match s.line.state with
  | .idle => some (s.idleEnded.setLine (.receiving .frame))
  | .contending => some (s.loseFrame .frame)
  | .receiving .gap => some ((s.setMarker false).setLine (.receiving .frame))
  | .receiving .frame => some s
  | _ => none

/-- A good frame of station `src` has ended: one bearing the own number reveals a duplicate (R134); one from a peer is
handed on, in ACTIVE with the heard update first (R7, R8), in LEAVING without. -/
def State.frameReceived (s : State) (src : Station) (active leaving : State → State) : State :=
  match s.reading with
  | none => s
  | some r =>
    let t := r.setLine (.receiving .gap)
    if t.own = some src then t.reportFault .duplicateStation
    else match t.control.station with
      | .active => active (t.heard src)
      | .leaving => leaving t
      | _ => t

/-- A received frame is discarded: the line error count is raised, up to 255, and the rest is passed over (R132,
R133). -/
def State.frameDiscarded (s : State) : State :=
  match s.reading with
  | none => s
  | some r =>
    { r with line := { r.line with errors := min Config.maxLineErrors (r.line.errors + 1) } }.setLine
      (.receiving .passing)

end Sys2Proof.Machine
end

