-- ==== Sys2Proof/Machine/FrameEvents.lean ====
section
/-! DEFINITION. The good frames of other stations (chapters 1, 2, 5, 7): ANNOUNCE, JOIN, SEVER, TALLY, MESSAGE, and one
addressed to another station. -/

namespace Sys2Proof.Machine

/-- An ANNOUNCE from `p`, by the state of its entry (R15). -/
def State.handleAnnounce (p : Station) (s : State) : State :=
  match (s.entry p).state with
  | .opened => s.restartSession p 0
  | _ => s.freshJoining p 0

/-- The meaning of ANNOUNCE_RECEIVED (R15, R134); the incarnation is not used. -/
def execAnnounceReceived (src : Station) (_incarnation : Byte) (s : State) : Host.Outcome State Fault Refusal :=
  done (s.frameReceived src (State.handleAnnounce src) id)

/-- `p`'s entry takes a JOIN's source tag as its peer tag (R17). -/
def State.learnPeerTag (s : State) (p : Station) (tag : Tag) : State :=
  s.setEntry p { s.entry p with peerTag := tag }

/-- A JOIN from `p` addressed to this station, by the state of its entry (R16 to R18). -/
def State.handleJoin (p : Station) (srcTag yourTag : Tag) (s : State) : State :=
  if srcTag = 0 then s
  else match (s.entry p).state with
    | .absent => s.freshJoining p srcTag
    | .lost => s
    | .joining =>
      if (s.entry p).returnedBy yourTag then (s.learnPeerTag p srcTag).openSession p
      else (s.learnPeerTag p srcTag).claimJoin p
    | .opened => if srcTag = (s.entry p).peerTag then s.claimTally p else s.restartSession p srcTag

/-- The meaning of JOIN_RECEIVED (R16 to R18, R134). -/
def execJoinReceived (src : Station) (srcTag yourTag : Tag) (s : State) : Host.Outcome State Fault Refusal :=
  done (s.frameReceived src (State.handleJoin src srcTag yourTag) id)

/-- A SEVER from `p` addressed to this station: a match closes a JOINING or OPEN entry with SEVERED (R23). -/
def State.handleSever (p : Station) (srcTag dstTag : Tag) (s : State) : State :=
  let e := s.entry p
  if (e.state = .joining ∨ e.state = .opened) ∧ e.matchesTags srcTag dstTag then s.closeSession .severed p else s

/-- The meaning of SEVER_RECEIVED (R23, R134); the reason is not used (R164). -/
def execSeverReceived (src : Station) (srcTag dstTag : Tag) (_reason : Byte) (s : State) :
    Host.Outcome State Fault Refusal :=
  done (s.frameReceived src (State.handleSever src srcTag dstTag) id)

/-- A TALLY from `p` addressed to this station (R20 to R22). -/
def State.handleTally (p : Station) (srcTag dstTag : Tag) (pairs : PerClass TallyPair) (s : State) : State :=
  let e := s.entry p
  if e.matchesTags srcTag dstTag then
    match e.state with
    | .opened => s.processTally p pairs
    | .joining => (s.openSession p).processTally p pairs
    | _ => s.staleSever p srcTag dstTag
  else s.staleSever p srcTag dstTag

/-- The meaning of TALLY_RECEIVED (R20 to R22, R134). -/
def execTallyReceived (src : Station) (srcTag dstTag : Tag) (pairs : PerClass TallyPair) (s : State) :
    Host.Outcome State Fault Refusal :=
  done (s.frameReceived src (State.handleTally src srcTag dstTag pairs) (·.staleSever src srcTag dstTag))

/-- A MESSAGE from `p` addressed to this station (R20 to R22, R39). -/
def State.handleMessage (p : Station) (srcTag dstTag : Tag) (c : Cls) (seq : Count) (payload : List Byte) (s : State) :
    State :=
  let e := s.entry p
  if e.matchesTags srcTag dstTag then
    match e.state with
    | .opened => s.receiveMessage p c seq payload
    | .joining => s
    | _ => s.staleSever p srcTag dstTag
  else s.staleSever p srcTag dstTag

/-- The meaning of MESSAGE_RECEIVED (R20 to R22, R39, R134). A payload no good MESSAGE carries is a bad length, and the
frame is discarded (R132; DESIGN CHOICE, assumption log 10). -/
def execMessageReceived (src : Station) (srcTag dstTag : Tag) (c : Cls) (seq : Count) (payload : List Byte) (s : State) :
    Host.Outcome State Fault Refusal :=
  done (if payload.length = 0 ∨ Config.maxPayload < payload.length then s.frameDiscarded
    else s.frameReceived src (State.handleMessage src srcTag dstTag c seq payload) (·.staleSever src srcTag dstTag))

/-- The meaning of FRAME_ADDRESSED_TO_ANOTHER_STATION (R8, R134, R135): the heard update alone. -/
def execFrameAddressedToAnotherStation (_kind : DirectedKind) (src : Station) (s : State) :
    Host.Outcome State Fault Refusal :=
  done (s.frameReceived src id id)

end Sys2Proof.Machine
end

