-- ==== Sys2Proof/Machine/LineEvents.lean ====
section
/-! DEFINITION. The events of chapters 6 and 7 on this station's own frames and on the idle line: FRAME_BUILD,
FRAME_WON, FRAME_LOST, FRAME_COMPLETED, FRAME_ABORTED, IDLE_BEGUN, WINDOW_OUT, FRAME_DISCARD, START_BIT_RECEIVED. -/

namespace Sys2Proof.Machine

/-- The meaning of FRAME_BUILD (R112, R116). -/
def execFrameBuild (s : State) : Host.Outcome State Fault Refusal := done s.selectAndBuild

/-- The unit a win concerns takes it: the Transmit Unit a MESSAGE, the Session Unit a TALLY not withdrawn, whose peer's
refresh timer is started if its entry is OPEN (R27, R117). -/
def State.passWin (s : State) : State :=
  match s.arb.inHand with
  | some ⟨.message _, _⟩ => { s with tx := s.tx.won s.record.ackTimeout }
  | some ⟨.tally p, false⟩ =>
    if s.isOpen p then s.setEntry p { s.entry p with refreshTimer := .start s.record.refreshInterval } else s
  | _ => s

/-- FRAME_WON: the line becomes TRANSMITTING and the win is passed on (R117, R126). The own start bit before it has ended the
idle period; it has no row, so the yield flag clears here: DEDUCED, assumption log 9. -/
def frameWonEffect (s : State) : State :=
  if s.line.state = .contending then s.idleEnded.passWin.setLine .transmitting else s

/-- The meaning of FRAME_WON (R126). -/
def execFrameWon (s : State) : Host.Outcome State Fault Refusal := done (frameWonEffect s)

/-- FRAME_LOST: the frame in hand ends lost; the station assembles the winning frame, or after a drive fault drives the
abort marker, reads the gap and raises the consecutive-abort count (R126). -/
def frameLostEffect (cause : LossCause) (s : State) : State :=
  if s.line.state = .contending then
    match cause with
    | .driveFault => ((s.loseFrame .gap).setMarker true).raiseAborts
    | _ => s.loseFrame .frame
  else s

/-- The meaning of FRAME_LOST (R126). -/
def execFrameLost (cause : LossCause) (s : State) : Host.Outcome State Fault Refusal := done (frameLostEffect cause s)

/-- The yield flag after a completed frame: set by a MESSAGE, left by any other kind (R115). -/
def Arbiter.completed (a : Arbiter) : Arbiter :=
  match a.inHand with
  | some ⟨.message _, _⟩ => { a with yield := true, inHand := none }
  | _ => { a with inHand := none }

/-- FRAME_COMPLETED: the record ends, the buffer is empty, the consecutive-abort count is 0 and the gap is read (R117,
R128). -/
def frameCompletedEffect (s : State) : State :=
  if s.line.state = .transmitting then
    { s with
      arb := s.arb.completed
      tx := { s.tx with tie := none }
      line := { s.line with state := .receiving .gap, outbound := none, aborts := 0 } }
  else s

/-- The meaning of FRAME_COMPLETED (R128). -/
def execFrameCompleted (s : State) : Host.Outcome State Fault Refusal := done (frameCompletedEffect s)

/-- FRAME_ABORTED: the abort marker, the notice, the empty buffer, the count, the gap (R127). -/
def frameAbortedEffect (s : State) : State :=
  if s.line.state = .transmitting then
    ((s.abortedNotice.emptyBuffer.setMarker true).setLine (.receiving .gap)).raiseAborts
  else s

/-- The meaning of FRAME_ABORTED (R127). -/
def execFrameAborted (s : State) : Host.Outcome State Fault Refusal := done (frameAbortedEffect s)

/-- IDLE_BEGUN: outside a frame the line becomes IDLE, and the first selection is made and its frame built (R112, R124,
R125). That both are one step: DEDUCED, assumption log 5. While a frame is assembled twelve recessive bits cannot be
read, since the sixth breaks the frame (R132): no effect, assumption log 8. -/
def idleBegunEffect (s : State) : State :=
  match s.line.state with
  | .receiving .unsynchronized | .receiving .gap | .receiving .passing =>
    ((s.setMarker false).setLine .idle).selectAndBuild
  | _ => s

/-- The meaning of IDLE_BEGUN (R125). -/
def execIdleBegun (s : State) : Host.Outcome State Fault Refusal := done (idleBegunEffect s)

/-- WINDOW_OUT: on a line still IDLE the yield flag clears and a selection is made at once (R115). -/
def windowOutEffect (s : State) : State :=
  if s.line.state = .idle then s.idleEnded.selectAndBuild else s

/-- The meaning of WINDOW_OUT (R115). -/
def execWindowOut (s : State) : Host.Outcome State Fault Refusal := done (windowOutEffect s)

/-- The meaning of FRAME_DISCARD (R132): a frame counts once, whatever its classes. -/
def execFrameDiscard (_cls : DiscardClass) (s : State) : Host.Outcome State Fault Refusal := done s.frameDiscarded

/-- The meaning of START_BIT_RECEIVED (R125). -/
def execStartBitReceived (s : State) : Host.Outcome State Fault Refusal := done (s.reading.getD s)

end Sys2Proof.Machine
end

