-- ==== Sys2Proof/Machine/PortOps.lean ====
section
/-! DEFINITION. The Host Port's shared operations: when a command may be taken (R138, R141), the end of a transaction
(R140, R142), and the reset (R151, R161). -/

namespace Sys2Proof.Machine

/-- Is a transaction open that has taken no command yet? SCK edges while CS is high are ignored (R137), and a
transaction carries one command (R138). -/
def State.awaitsCommand (s : State) : Bool :=
  match s.port.txn with
  | some t => t.command = .none
  | none => false

/-- The open transaction takes `command`, and MISO carries `reply` from byte 2 (R138). -/
def State.taken (s : State) (command : TxnCommand) (reply : List Byte) : State :=
  { s with port := { s.port with txn := s.port.txn.map fun t => { t with command := command, reply := reply } } }

/-- The open transaction takes a command whose result is `r` and whose reply is all zeros. -/
def State.decided (s : State) (r : Result) : State := s.taken (.decided r) []

/-- A host command's effect, where the transaction can take it; otherwise its bytes are ignored (R137, R138; DESIGN CHOICE,
assumption log 1). -/
def State.onCommand (s : State) (effect : State → State) : State := if s.awaitsCommand then effect s else s

/-- The command of the open transaction. -/
def State.command (s : State) : Option TxnCommand := s.port.txn.map (·.command)

/-- The result a transaction that ends now has, by its command and how far it has come (R140, R142; R61, R67, R80, R144,
R147). -/
def TxnCommand.result : TxnCommand → Result
  | .none => .short
  | .unknown => .unknown
  | .decided r => r
  | .take _ _ complete => if complete then .ok else .short
  | .completions left => if left = 0 then .ok else .short
  | .status _ _ _ full => if full then .ok else .short
  | .peers _ _ full => if full then .ok else .short

/-- CS rises: the transaction ends and its result is written; with none open nothing is written (R140, R151). -/
def HostPort.endTransaction (h : HostPort) : HostPort :=
  match h.txn with
  | some t => { h with cs := .high, txn := none, prevResult := t.command.result }
  | none => { h with cs := .high }

/-- Every block at its reset values, with RST and CS at the levels given; the commands waiting stay (R151, R161, R162;
DESIGN CHOICE, assumption log 11). With RST low the station is held in reset (R161). -/
def State.afterReset (s : State) (rst cs : PinLevel) : State :=
  { State.reset with
    port := { HostPort.reset with cs := cs, rst := rst }
    draws := s.draws
    pending := s.pending }

end Sys2Proof.Machine
end

