-- ==== Sys2Proof/Machine/SendCommands.lean ====
section
/-! DEFINITION. The commands of chapter 4: SUBMIT, CANCEL, COMPLETIONS and the reading of its records. -/

namespace Sys2Proof.Machine

/-- The staging buffer as a SUBMIT fills it: emptied, then up to 500 payload bytes (R70, R150). -/
def State.fillStaging (s : State) (payload : List Byte) : State :=
  { s with port := { s.port with staging := payload.take Config.maxPayload } }

/-- The checks of R71 from the destination on, and the enqueueing where all pass. -/
def submitChecked (dest cls : Byte) (hostTag length : BitVec 16) (carried : Nat) (s : State) : State :=
  match stationOf dest with
  | none => s.decided .badDest
  | some p =>
    if s.own = some p then s.decided .badDest
    else match classOf cls with
      | none => s.decided .badClass
      | some c =>
        if length.toNat = 0 ∨ Config.maxPayload < length.toNat then s.decided .badLength
        else if carried < length.toNat then s.decided .short
        else if (s.entry p).state ≠ .joining ∧ (s.entry p).state ≠ .opened then s.decided .peerDown
        else match s.tx.freeSlot with
          | none => s.decided .noSlot
          | some i =>
            { s with tx := s.tx.enqueue i p c hostTag (s.port.staging.take length.toNat) }.decided .ok

/-- SUBMIT (R70, R71): the payload bytes go to the staging buffer; at CS rising the checks are made in order. -/
def submitEffect (dest cls : Byte) (hostTag length : BitVec 16) (payload : List Byte) (s : State) : State :=
  let t := s.fillStaging payload
  if t.isActive then submitChecked dest cls hostTag length payload.length t else t.decided .wrongState

/-- The meaning of SUBMIT (R71). -/
def execSubmit (dest cls : Byte) (hostTag length : BitVec 16) (payload : List Byte) (s : State) :
    Host.Outcome State Fault Refusal :=
  done (s.onCommand (submitEffect dest cls hostTag length payload))

/-- CANCEL (R75, steps 1 to 4). -/
def cancelEffect (hostTag : BitVec 16) (dest : Byte) (s : State) : State :=
  match stationOf dest with
  | none => s.decided .badDest
  | some p =>
    match s.tx.oldestQueued hostTag p with
    | some (i, r) => { s with tx := s.tx.withdraw p r.cls i }.decided .ok
    | none => if s.tx.underWay hostTag p then s.decided .inFlight else s.decided .notFound

/-- The meaning of CANCEL (R75). -/
def execCancel (hostTag : BitVec 16) (dest : Byte) (s : State) : Host.Outcome State Fault Refusal :=
  done (s.onCommand (cancelEffect hostTag dest))

/-- COMPLETIONS (R80): a count byte of 0 or above 32 is refused; otherwise the lesser of it and the queue's length is
fixed, and the reply is that number and the records. -/
def completionsEffect (count : Byte) (s : State) : State :=
  if count.toNat = 0 ∨ Config.txSlots < count.toNat then s.decided .badCount
  else
    let shown := s.tx.completions.take count.toNat
    let reply := byteOf shown.length :: shown.flatMap s.tx.completionRecord
    if shown.length = 0 then s.taken (.decided .empty) reply else s.taken (.completions shown.length) reply

/-- The meaning of COMPLETIONS (R80). -/
def execCompletions (count : Byte) (s : State) : Host.Outcome State Fault Refusal :=
  done (s.onCommand (completionsEffect count))

/-- The command of the open transaction set, its reply kept. -/
def State.setCommand (s : State) (c : TxnCommand) : State := { s with port := s.port.onCommand fun _ => c }

/-- The last byte of the next fixed record has been clocked out: its slot leaves the head of the completion queue and
becomes FREE (R80). -/
def completionRecordReadEffect (s : State) : State :=
  match s.command with
  | some (.completions (left + 1)) => { s with tx := s.tx.popCompletion }.setCommand (.completions left)
  | _ => s

/-- The meaning of COMPLETION_RECORD_READ (R80). -/
def execCompletionRecordRead (s : State) : Host.Outcome State Fault Refusal := done (completionRecordReadEffect s)

end Sys2Proof.Machine
end

