-- ==== Sys2Proof/Machine/ReceiveCommands.lean ====
section
/-! DEFINITION. The commands of chapter 3: TAKE, its completion, and PEEK. -/

namespace Sys2Proof.Machine

/-- The header of a TAKE or PEEK that shows no message: source 0, the class byte as sent, length 0, remaining 0 (R58). -/
def emptyHeader (classByte : Byte) : List Byte := takeHeader 0 classByte 0 0

/-- TAKE (R57 to R59, R62, R166): header and payload of the head fixed now. -/
def takeEffect (classByte : Byte) (s : State) : State :=
  match classChoice classByte with
  | .outOfRange => s.decided .badClass
  | choice =>
    match s.rx.shown choice with
    | some (c, i, m, remaining) => s.taken (.take c i false) (m.header remaining ++ m.payload)
    | none => s.taken (.decided .empty) (emptyHeader classByte)

/-- The meaning of TAKE (R57). -/
def execTake (classByte : Byte) (s : State) : Host.Outcome State Fault Refusal :=
  done (s.onCommand (takeEffect classByte))

/-- A release: the slot's fate by its source's state now, and where it is OPEN a TALLY claim (R45). -/
def State.releaseSlot (s : State) (i : RxIx) : State :=
  match s.rx.message i with
  | none => s
  | some m =>
    let t := { s with rx := s.rx.release i m (s.isOpen m.source) }
    if s.isOpen m.source then t.claimTally m.source else t

/-- The message leaves its queue (R60, step 1). -/
def State.dequeue (s : State) (c : Cls) (i : RxIx) : State :=
  { s with rx := { s.rx with queues := alter s.rx.queues c (·.erase i) } }

/-- A TAKE's completion: the head leaves its queue and its slot is released (R60). -/
def takeCompleteEffect (s : State) : State :=
  match s.command with
  | some (.take c i false) => ((s.dequeue c i).releaseSlot i).setCommand (.take c i true)
  | _ => s

/-- The meaning of TAKE_COMPLETE (R60). -/
def execTakeComplete (s : State) : Host.Outcome State Fault Refusal := done (takeCompleteEffect s)

/-- PEEK (R57, R58, R63, R166): the header alone; nothing else changes. -/
def peekEffect (classByte : Byte) (s : State) : State :=
  match classChoice classByte with
  | .outOfRange => s.decided .badClass
  | choice =>
    match s.rx.shown choice with
    | some (_, _, m, remaining) => s.taken (.decided .ok) (m.header remaining)
    | none => s.taken (.decided .empty) (emptyHeader classByte)

/-- The meaning of PEEK (R63). -/
def execPeek (classByte : Byte) (s : State) : Host.Outcome State Fault Refusal :=
  done (s.onCommand (peekEffect classByte))

end Sys2Proof.Machine
end

