-- ==== Sys2Proof/Machine/PortCommands.lean ====
section
/-! DEFINITION. The commands and events of chapter 8: STATUS, PEERS and their read-clears, MASK, an unknown command, and
the two ends of a transaction. -/

namespace Sys2Proof.Machine

/-- STATUS: the snapshot and its record (R144). -/
def statusEffect (s : State) : State :=
  s.taken (.status s.control.faults s.line.errors .clear false) s.statusRecord

/-- The meaning of STATUS (R144). -/
def execStatus (s : State) : Host.Outcome State Fault Refusal := done (s.onCommand statusEffect)

/-- The read-clear of a full STATUS read: the flags shown set and not set again since are cleared, and the line error
count is lowered by the value shown (R133, R145). -/
def statusReadClearEffect (s : State) : State :=
  match s.command with
  | some (.status shown errors since false) =>
    { s with
      control := { s.control with faults := s.control.faults.readClear shown since }
      line := { s.line with errors := s.line.errors - errors } }.setCommand (.status shown errors since true)
  | _ => s

/-- The meaning of STATUS_READ_CLEAR (R145). -/
def execStatusReadClear (s : State) : Host.Outcome State Fault Refusal := done (statusReadClearEffect s)

/-- PEERS: the snapshot of a position and its record; 16 to 255 is refused (R146, R165). -/
def peersEffect (peerByte : Byte) (s : State) : State :=
  match stationOf peerByte with
  | some p => s.taken (.peers p false false) (s.peerRecord p)
  | none => s.decided .badDest

/-- The meaning of PEERS (R146). -/
def execPeers (peerByte : Byte) (s : State) : Host.Outcome State Fault Refusal :=
  done (s.onCommand (peersEffect peerByte))

/-- The read-clear of a full PEERS read: the changed flag of the peer read, unless set since the snapshot (R147). -/
def peersReadClearEffect (s : State) : State :=
  match s.command with
  | some (.peers p since false) =>
    (if since then s else s.setEntry p { s.entry p with changed := false }).setCommand (.peers p since true)
  | _ => s

/-- The meaning of PEERS_READ_CLEAR (R147). -/
def execPeersReadClear (s : State) : Host.Outcome State Fault Refusal := done (peersReadClearEffect s)

/-- MASK: the attention mask replaced whole (R148). -/
def maskEffect (value : Byte) (s : State) : State :=
  { s with control := { s.control with mask := value } }.decided .ok

/-- The meaning of MASK (R148). -/
def execMask (value : Byte) (s : State) : Host.Outcome State Fault Refusal := done (s.onCommand (maskEffect value))

/-- The meaning of UNKNOWN_COMMAND (R141). A byte that names a command is not this row's: nothing is taken
(DESIGN CHOICE, assumption log 10). -/
def execUnknownCommand (code : Byte) (s : State) : Host.Outcome State Fault Refusal :=
  done (s.onCommand fun t => if namesCommand code then t else t.taken .unknown [])

/-- CS falls: a transaction opens with the summary sampled now (R137, R139). While RST is low no transaction is taken, and
the port waits for CS to rise (R151, R161). CS already low has no falling edge (DESIGN CHOICE, assumption log 1). -/
def State.beginTransaction (s : State) : State :=
  match s.port.cs, s.port.rst with
  | .high, .high => { s with port := { s.port with cs := .low, txn := some ⟨s.summary, .none, []⟩ } }
  | .high, .low => { s with port := { s.port with cs := .low } }
  | .low, _ => s

/-- The meaning of TRANSACTION_BEGIN (R139). -/
def execTransactionBegin (s : State) : Host.Outcome State Fault Refusal := done s.beginTransaction

/-- The meaning of TRANSACTION_END (R140). -/
def execTransactionEnd (s : State) : Host.Outcome State Fault Refusal :=
  done { s with port := s.port.endTransaction }

end Sys2Proof.Machine
end

