-- ==== Sys2Proof/Machine/StationCommands.lean ====
section
/-! DEFINITION. The commands of chapter 9: CONFIGURE, START, LEAVE, RESET, the two other resets, and DRAINED. -/

namespace Sys2Proof.Machine

/-- A record that passed every check is applied; a changed own number returns the new own position to its reset values
(R2, R154). -/
def State.applyConfig (s : State) (r : ConfigRecord) : State :=
  { s with
    control := { s.control with config := some r, station := .configured }
    session := if s.own ≠ none ∧ s.own ≠ some r.ownStation then put s.session r.ownStation .reset else s.session }

/-- CONFIGURE (R154): state, record, and in CONFIGURED the pool, in that order. -/
def configureEffect (image : ConfigImage) (s : State) : State :=
  if s.control.station ≠ .unconfigured ∧ s.control.station ≠ .configured then s.decided .wrongState
  else match validRecord image with
    | none => s.decided .badConfig
    | some r =>
      if s.control.station = .configured ∧ s.rx.anyOccupied then s.decided .poolBusy
      else (s.applyConfig r).decided .ok

/-- The meaning of CONFIGURE (R154). -/
def execConfigure (image : ConfigImage) (s : State) : Host.Outcome State Fault Refusal :=
  done (s.onCommand (configureEffect image))

/-- START (R155). -/
def startEffect (s : State) : State :=
  if s.control.station = .configured then
    ({ s.setStation .active with arb := { s.arb with announce := true } }.setMarker false).setLine
        (.receiving .unsynchronized)
      |>.decided .ok
  else s.decided .wrongState

/-- The meaning of START (R155). -/
def execStart (s : State) : Host.Outcome State Fault Refusal := done (s.onCommand startEffect)

/-- The drained report: a LEAVING station whose SEVER set is empty and whose hand is empty becomes CONFIGURED, SILENT,
with the yield flag clear (R115, R119, R157). At any other moment the report does not arise: DEDUCED, assumption log 6. -/
def State.reportDrained (s : State) : State :=
  if s.control.station = .leaving ∧ s.arb.isDrained then (s.setStation .configured).goSilent.idleEnded else s

/-- LEAVE (R156): in ACTIVE every entry is closed LEFT and the ANNOUNCE withdrawn; an arbiter drained at once makes the
station CONFIGURED at this taking (R157). -/
def leaveEffect (s : State) : State :=
  match s.control.station with
  | .active =>
    let s1 := (s.setStation .leaving).closeAll .left
    { s1 with arb := s1.arb.clearAnnounce }.reportDrained.decided .ok
  | .leaving => s.decided .ok
  | _ => s.decided .wrongState

/-- The meaning of LEAVE (R156). -/
def execLeave (s : State) : Host.Outcome State Fault Refusal := done (s.onCommand leaveEffect)

/-- The meaning of RESET (R140, R161): its transaction ends with CS rising, its result is overwritten with NONE by the
reset. -/
def execReset (s : State) : Host.Outcome State Fault Refusal :=
  done (s.onCommand fun t => t.afterReset t.port.rst .high)

/-- RESET_PIN: RST low holds the station in reset from any state, whatever is in progress, and the reset ends when RST
rises (R161). RST already high has no rising edge (assumption log 12). -/
def resetPinEffect (move : PinMove) (s : State) : State :=
  match move with
  | .falls => s.afterReset .low s.port.cs
  | .rises => if s.port.rst = .low then s.afterReset .high s.port.cs else s
  | .pulse => s.afterReset .high s.port.cs

/-- The meaning of RESET_PIN (R161). -/
def execResetPin (move : PinMove) (s : State) : Host.Outcome State Fault Refusal := done (resetPinEffect move s)

/-- The meaning of POWER_ON (R161): the power-up reset ends as at RST rising, or where RST is still low lasts on until RST
rises. -/
def execPowerOn (pins : PinLevels) (s : State) : Host.Outcome State Fault Refusal := done (s.afterReset pins.rst pins.cs)

/-- The meaning of DRAINED (R157). -/
def execDrained (s : State) : Host.Outcome State Fault Refusal := done s.reportDrained

end Sys2Proof.Machine
end

