-- ==== Sys2Proof/Machine/TimerEvents.lean ====
section
/-! DEFINITION. The timers: the five expiries (R24 to R27, R102), and the tick of the 1 ms time base that brings them
about (R163). A timer that has expired is stopped until a rule starts it; the expiry of a stopped timer cannot
occur. -/

namespace Sys2Proof.Machine

/-- JOIN_TIMER_EXPIRY: a retry below the limit J, JOIN_FAILED at it (R24). -/
def joinTimerExpiryEffect (p : Station) (s : State) : State :=
  let e := s.entry p
  if e.joinTimer.isRunning then
    if e.state = .joining then
      if e.joinAttempts < s.record.joinAttempts then
        (s.setEntry p { e with joinAttempts := e.joinAttempts + 1, joinTimer := .start s.record.joinInterval }).claimJoin p
      else s.closeSession .joinFailed p
    else s.setEntry p { e with joinTimer := .stopped }
  else s

/-- The meaning of JOIN_TIMER_EXPIRY (R24). -/
def execJoinTimerExpiry (p : Station) (s : State) : Host.Outcome State Fault Refusal := done (joinTimerExpiryEffect p s)

/-- HOLD_DOWN_EXPIRY: a LOST entry enters fresh JOINING with peer tag 0 (R25). -/
def holdDownExpiryEffect (p : Station) (s : State) : State :=
  let e := s.entry p
  if e.holdDownTimer.isRunning then
    if e.state = .lost then s.freshJoining p 0 else s.setEntry p { e with holdDownTimer := .stopped }
  else s

/-- The meaning of HOLD_DOWN_EXPIRY (R25). -/
def execHoldDownExpiry (p : Station) (s : State) : Host.Outcome State Fault Refusal := done (holdDownExpiryEffect p s)

/-- SILENCE_EXPIRY: an OPEN entry is closed SILENT (R26). -/
def silenceExpiryEffect (p : Station) (s : State) : State :=
  let e := s.entry p
  if e.silenceTimer.isRunning then
    if e.state = .opened then s.closeSession .silent p else s.setEntry p { e with silenceTimer := .stopped }
  else s

/-- The meaning of SILENCE_EXPIRY (R26). -/
def execSilenceExpiry (p : Station) (s : State) : Host.Outcome State Fault Refusal := done (silenceExpiryEffect p s)

/-- REFRESH_EXPIRY: in OPEN, a TALLY claim, and the timer started again (R27). -/
def refreshExpiryEffect (p : Station) (s : State) : State :=
  let e := s.entry p
  if e.refreshTimer.isRunning then
    if e.state = .opened then
      (s.setEntry p { e with refreshTimer := .start s.record.refreshInterval }).claimTally p
    else s.setEntry p { e with refreshTimer := .stopped }
  else s

/-- The meaning of REFRESH_EXPIRY (R27). -/
def execRefreshExpiry (p : Station) (s : State) : Host.Outcome State Fault Refusal := done (refreshExpiryEffect p s)

/-- ACK_TIMER_EXPIRY: below the retry limit a go-back in every class with messages in flight; at it an UNRESPONSIVE
close is requested with the entry's tags (R14, R102). -/
def ackTimerExpiryEffect (p : Station) (s : State) : State :=
  if (look s.tx.ackTimers p).isRunning then
    let t := { s with tx := s.tx.stopAck p }
    if look s.tx.retries p < s.record.retryLimit then { t with tx := t.tx.retry p }
    else t.requestClose .unresponsive p (s.entry p).ownTag (s.entry p).peerTag
  else s

/-- The meaning of ACK_TIMER_EXPIRY (R102). -/
def execAckTimerExpiry (p : Station) (s : State) : Host.Outcome State Fault Refusal := done (ackTimerExpiryEffect p s)

/-! ## The time base -/

/-- An entry's four timers, one tick later. -/
def PeerEntry.tick (e : PeerEntry) : PeerEntry :=
  { e with
    joinTimer := e.joinTimer.tick
    holdDownTimer := e.holdDownTimer.tick
    silenceTimer := e.silenceTimer.tick
    refreshTimer := e.refreshTimer.tick }

/-- Every timer of the station, one tick later (R163). -/
def State.countDown (s : State) : State :=
  { s with
    session := mapAll PeerEntry.tick s.session
    tx := { s.tx with ackTimers := mapAll Timer.tick s.tx.ackTimers } }

/-- The expiries of `p`'s timers that have run out, each with the number that ranks it among the expiries of one tick. -/
def State.dueFor (s : State) (p : Station) : List (Nat × Instr) :=
  let e := s.entry p
  [(0, e.joinTimer, Instr.joinTimerExpiry p), (1, e.holdDownTimer, .holdDownExpiry p),
    (2, e.silenceTimer, .silenceExpiry p), (3, e.refreshTimer, .refreshExpiry p),
    (4, look s.tx.ackTimers p, .ackTimerExpiry p)].filterMap fun (k, t, i) =>
      if t.due then some (16 * k + p.val, i) else none

/-- Every expiry of the tick just given. -/
def State.dueExpiries (s : State) : List (Nat × Instr) := stations.flatMap s.dueFor

/-- One tick of the time base (R163): every timer counts, and those that run out give one expiry each, in an order the
manual leaves open (assumption log 3). -/
def State.tick (s : State) : State :=
  let t := s.countDown
  match t.dueExpiries with
  | [] => t
  | due =>
    { t with
      pending := t.pending ++ (inDrawnOrder t.draws Prod.fst due).map Prod.snd
      draws := t.draws + 1 }

end Sys2Proof.Machine
end

