-- ==== Sys2Proof/Machine/Dispatch.lean ====
section
/-! DEFINITION. The dispatch of a command to its meaning, one arm per row of spec/opcode_table.json. -/

namespace Sys2Proof.Machine

def exec (i : Instr) (s : State) : Host.Outcome State Fault Refusal :=
  match i with
  | .configure image => Sys2Proof.Machine.execConfigure image s
  | .start => Sys2Proof.Machine.execStart s
  | .leave => Sys2Proof.Machine.execLeave s
  | .reset => Sys2Proof.Machine.execReset s
  | .submit dest cls hostTag length payload => Sys2Proof.Machine.execSubmit dest cls hostTag length payload s
  | .cancel hostTag dest => Sys2Proof.Machine.execCancel hostTag dest s
  | .completions count => Sys2Proof.Machine.execCompletions count s
  | .completionRecordRead => Sys2Proof.Machine.execCompletionRecordRead s
  | .take classByte => Sys2Proof.Machine.execTake classByte s
  | .takeComplete => Sys2Proof.Machine.execTakeComplete s
  | .peek classByte => Sys2Proof.Machine.execPeek classByte s
  | .status => Sys2Proof.Machine.execStatus s
  | .statusReadClear => Sys2Proof.Machine.execStatusReadClear s
  | .peers peerByte => Sys2Proof.Machine.execPeers peerByte s
  | .peersReadClear => Sys2Proof.Machine.execPeersReadClear s
  | .mask value => Sys2Proof.Machine.execMask value s
  | .unknownCommand code => Sys2Proof.Machine.execUnknownCommand code s
  | .transactionBegin => Sys2Proof.Machine.execTransactionBegin s
  | .transactionEnd => Sys2Proof.Machine.execTransactionEnd s
  | .resetPin move => Sys2Proof.Machine.execResetPin move s
  | .powerOn pins => Sys2Proof.Machine.execPowerOn pins s
  | .frameBuild => Sys2Proof.Machine.execFrameBuild s
  | .frameWon => Sys2Proof.Machine.execFrameWon s
  | .frameLost cause => Sys2Proof.Machine.execFrameLost cause s
  | .frameCompleted => Sys2Proof.Machine.execFrameCompleted s
  | .frameAborted => Sys2Proof.Machine.execFrameAborted s
  | .idleBegun => Sys2Proof.Machine.execIdleBegun s
  | .windowOut => Sys2Proof.Machine.execWindowOut s
  | .frameDiscard cls => Sys2Proof.Machine.execFrameDiscard cls s
  | .announceReceived src incarnation => Sys2Proof.Machine.execAnnounceReceived src incarnation s
  | .joinReceived src srcTag yourTag => Sys2Proof.Machine.execJoinReceived src srcTag yourTag s
  | .severReceived src srcTag dstTag reason => Sys2Proof.Machine.execSeverReceived src srcTag dstTag reason s
  | .tallyReceived src srcTag dstTag pairs => Sys2Proof.Machine.execTallyReceived src srcTag dstTag pairs s
  | .messageReceived src srcTag dstTag cls seq payload => Sys2Proof.Machine.execMessageReceived src srcTag dstTag cls seq payload s
  | .joinTimerExpiry peer => Sys2Proof.Machine.execJoinTimerExpiry peer s
  | .holdDownExpiry peer => Sys2Proof.Machine.execHoldDownExpiry peer s
  | .silenceExpiry peer => Sys2Proof.Machine.execSilenceExpiry peer s
  | .refreshExpiry peer => Sys2Proof.Machine.execRefreshExpiry peer s
  | .ackTimerExpiry peer => Sys2Proof.Machine.execAckTimerExpiry peer s
  | .drained => Sys2Proof.Machine.execDrained s
  | .frameAddressedToAnotherStation kind src => Sys2Proof.Machine.execFrameAddressedToAnotherStation kind src s
  | .startBitReceived => Sys2Proof.Machine.execStartBitReceived s

end Sys2Proof.Machine
end

