-- ==== Sys2Proof/WellFormed.lean ====
section
/-! DEFINITION. When a command's operands can be those of its row. Most operands may take any value their width allows,
because the owning rule says what each value does (R141, R164); what remains is stated here. -/

namespace Sys2Proof

/-- A payload a good MESSAGE can carry: 1 to 500 bytes (R39, R132 "bad length"). -/
def payloadFits (payload : List Byte) : Bool :=
  1 ≤ payload.length ∧ payload.length ≤ 500

/-- The operands are those of the row: a good MESSAGE has 1 to 500 payload bytes (R39), and an unknown command's byte
names no command (R141). Every other operand is meaningful at every value of its type. -/
def Instr.wellFormed : Instr → Bool
  | .messageReceived _ _ _ _ _ payload => payloadFits payload
  | .unknownCommand code => !namesCommand code
  | _ => true

/-- A frame a station can build or receive good: a MESSAGE has 1 to 500 payload bytes (R132). -/
def Frame.wellFormed : Frame → Bool
  | .message _ _ _ _ _ _ payload => payloadFits payload
  | _ => true

end Sys2Proof
end

