-- ==== Sys2Proof/Safety.lean ====
section
/-! DEFINITION. What claims are stated in: the laws the manual says the station keeps, each a decidable predicate on one
state, and the situations in which a command can act. A law is stated over every state that meets it, not over runs
from reset. -/

namespace Sys2Proof.Machine

/-! ## Laws of the Session Unit -/

/-- R6: an entry is OPEN only under two nonzero tags, JOINING only under a nonzero own tag; ABSENT and LOST hold none; and
the tag counter is never 0 (R4). -/
abbrev TagLaw (s : State) : Prop :=
  s.control.tagCounter ≠ 0 ∧
    ∀ p : Station,
      ((s.entry p).state = .opened → (s.entry p).ownTag ≠ 0 ∧ (s.entry p).peerTag ≠ 0) ∧
      ((s.entry p).state = .joining → (s.entry p).ownTag ≠ 0) ∧
      ((s.entry p).state = .absent ∨ (s.entry p).state = .lost → (s.entry p).ownTag = 0 ∧ (s.entry p).peerTag = 0)

/-- Section 1.3's column "timers running": the join timer in JOINING, silence and refresh in OPEN, hold-down in LOST,
none elsewhere. -/
abbrev TimerLaw (s : State) : Prop :=
  ∀ p : Station,
    (s.entry p).joinTimer.isRunning = decide ((s.entry p).state = .joining) ∧
    (s.entry p).holdDownTimer.isRunning = decide ((s.entry p).state = .lost) ∧
    (s.entry p).silenceTimer.isRunning = decide ((s.entry p).state = .opened) ∧
    (s.entry p).refreshTimer.isRunning = decide ((s.entry p).state = .opened)

/-- R7, R159: outside ACTIVE every entry is ABSENT. -/
abbrev QuietLaw (s : State) : Prop :=
  s.control.station ≠ .active → ∀ p : Station, (s.entry p).state = .absent

/-- R2, R33: the position at the own number holds the reset values, and its receive records hold zeros. -/
abbrev OwnLaw (s : State) : Prop :=
  ∀ p ∈ s.own, s.entry p = .reset ∧ ∀ c : Cls, look2 s.rx.records p c = .zero

/-! ## Laws of the Transmit Arbiter and the Line Unit -/

/-- R116: a JOIN claim, or one taken and not withdrawn, lives only while its entry is JOINING; a TALLY claim only while
its entry is OPEN. -/
abbrev ClaimLaw (s : State) : Prop :=
  ∀ p : Station,
    (look s.arb.joins p = true ∨ s.arb.inHand = some ⟨.join p, false⟩ → (s.entry p).state = .joining) ∧
    (look s.arb.tallies p = true ∨ s.arb.inHand = some ⟨.tally p, false⟩ → (s.entry p).state = .opened)

/-- R116, R124, R130, R152: the line is SILENT exactly outside ACTIVE and LEAVING, a frame stands in the outbound buffer
exactly while CONTENDING or TRANSMITTING, and it is then the frame in hand. R126, R127, R130: an abort marker was the last
the Line Unit drove only while it reads the gap behind the marker, or is SILENT. -/
abbrev LineLaw (s : State) : Prop :=
  (s.line.state = .silent ↔ s.control.station ≠ .active ∧ s.control.station ≠ .leaving) ∧
    (s.line.outbound.isSome = true ↔ s.line.state = .contending ∨ s.line.state = .transmitting) ∧
    s.arb.inHand.isSome = s.line.outbound.isSome ∧
    (s.line.marker = true → s.line.state = .receiving .gap ∨ s.line.state = .silent)

/-- R152, R153, R162: a record is in force exactly outside UNCONFIGURED, and it is a valid one. -/
abbrev ConfigLaw (s : State) : Prop :=
  (s.control.config = none ↔ s.control.station = .unconfigured) ∧ s.control.config.all (·.valid) = true

/-- R129, R133: the consecutive-abort count lies in 0 to 8 and is 8 only in MUTED; the line error count lies in 0 to
255. -/
abbrev CountLaw (s : State) : Prop :=
  s.line.aborts ≤ 8 ∧ (s.line.aborts = 8 → s.control.station = .muted) ∧ s.line.errors ≤ 255

/-! ## Laws of the Host Port -/

/-- The machine held in reset: every block at its reset values, RST low, CS at its level; the commands waiting and the
counter of draws are the model's own (R161, R162; assumption log 11). -/
def State.held (s : State) : State :=
  { State.reset with
    port := { State.reset.port with cs := s.port.cs, rst := .low }, draws := s.draws, pending := s.pending }

/-- R137, R149, R151, R161: a transaction is open only with CS low and RST high, ATTN stands at the level its conditions
give, and while RST is low the station is held in reset. -/
abbrev PortLaw (s : State) : Prop :=
  (s.port.txn.isSome = true → s.port.cs = .low ∧ s.port.rst = .high) ∧ s.port.attn = s.attnLevel ∧
    (s.port.rst = .low → s = s.held)

/-! ## Laws of the Receive Unit -/

/-- Is the slot OCCUPIED(p, c)? -/
def RxSlot.isOccupiedBy (p : Station) (c : Cls) : RxSlot → Bool
  | .occupied m => m.source = p && m.cls = c
  | _ => false

/-- Is the slot OCCUPIED in class `c`? -/
def RxSlot.isOccupiedIn (c : Cls) : RxSlot → Bool
  | .occupied m => m.cls = c
  | _ => false

/-- The grant of class `c` in force; 0 where no record is. -/
def State.grant (s : State) (c : Cls) : Nat := look s.record.grants c

/-- R33: the records count the slots. -/
abbrev PoolLaw (s : State) : Prop :=
  ∀ (p : Station) (c : Cls),
    (look2 s.rx.records p c).reserved = countIn (RxSlot.isReserved p c) s.rx.pool ∧
    (look2 s.rx.records p c).occupied = countIn (RxSlot.isOccupiedBy p c) s.rx.pool

/-- R51: a receive queue holds exactly the slots OCCUPIED in its class, each once. -/
abbrev QueueLaw (s : State) : Prop :=
  ∀ c : Cls, (look s.rx.queues c).Nodup ∧
    ∀ i : RxIx, i ∈ look s.rx.queues c ↔ (look s.rx.pool i).isOccupiedIn c = true

/-- R34: reserved and occupied never exceed the grant together, and make it up while the peer is OPEN; the distance from
A to L is then reserved; otherwise A, L and reserved are 0. -/
abbrev GrantLaw (s : State) : Prop :=
  ∀ (p : Station) (c : Cls),
    (look2 s.rx.records p c).reserved + (look2 s.rx.records p c).occupied ≤ s.grant c ∧
    (s.isOpen p = true →
      (look2 s.rx.records p c).reserved + (look2 s.rx.records p c).occupied = s.grant c ∧
      dist (look2 s.rx.records p c).accepted (look2 s.rx.records p c).limit = (look2 s.rx.records p c).reserved) ∧
    (s.isOpen p = false →
      (look2 s.rx.records p c).accepted = 0 ∧ (look2 s.rx.records p c).limit = 0 ∧
      (look2 s.rx.records p c).reserved = 0)

/-- R54, R60: the message a TAKE shows stands at the head of its queue until the TAKE completes. -/
abbrev TakeLaw (s : State) : Prop :=
  ∀ (c : Cls) (i : RxIx), s.command = some (.take c i false) → (look s.rx.queues c).head? = some i

/-- R162: while UNCONFIGURED every entry position holds its reset values. -/
abbrev BlankLaw (s : State) : Prop :=
  s.control.station = .unconfigured → ∀ p : Station, s.entry p = .reset

/-! ## Laws of the Transmit Unit -/

/-- Is the slot QUEUED for `p` in class `c`? -/
def TxSlot.isQueuedFor (p : Station) (c : Cls) : TxSlot → Bool
  | .held r => r.destination = p && r.cls = c && r.state = .queued
  | .free => false

/-- Is the slot IN_FLIGHT to `p` in class `c`? -/
def TxSlot.isInFlightTo (p : Station) (c : Cls) : TxSlot → Bool
  | .held r =>
    r.destination = p && r.cls = c && (match r.state with
      | .inFlight _ => true
      | _ => false)
  | .free => false

/-- Is the slot SENDING? -/
def TxSlot.isSending : TxSlot → Bool
  | .held r => r.state = .sending
  | .free => false

/-- Is the slot DONE? -/
def TxSlot.isDone : TxSlot → Bool
  | .held r => match r.state with
    | .done _ _ => true
    | _ => false
  | .free => false

/-- R68, R73, R77: every slot stands where its state says: QUEUED in its send queue, IN_FLIGHT in its in-flight list,
SENDING as the sending slot, DONE in the completion queue, and no slot stands twice in one list. -/
abbrev SlotLaw (s : State) : Prop :=
  (∀ (p : Station) (c : Cls),
    (look2 s.tx.queues p c).Nodup ∧
    (∀ i : TxIx, i ∈ look2 s.tx.queues p c ↔ (look s.tx.pool i).isQueuedFor p c = true) ∧
    (look2 s.tx.flights p c).Nodup ∧
    (∀ i : TxIx, i ∈ look2 s.tx.flights p c ↔ (look s.tx.pool i).isInFlightTo p c = true)) ∧
    (∀ i : TxIx, s.tx.sending = some i ↔ (look s.tx.pool i).isSending = true) ∧
    s.tx.completions.Nodup ∧
    (∀ i : TxIx, i ∈ s.tx.completions ↔ (look s.tx.pool i).isDone = true)

/-- The seqs of an in-flight list, head first. -/
def TransmitUnit.seqs (tx : TransmitUnit) (p : Station) (c : Cls) : List (Option Count) :=
  (look2 tx.flights p c).map fun i => (tx.slot i).bind fun r =>
    match r.state with
    | .inFlight q => some q
    | _ => none

/-- R86, R88: the in-flight list holds the messages from acked up to S, each once and in seq order; S lies within the
distance from acked to L′, which is at most 8; a resend point is the seq of an in-flight message; a peer that is not
OPEN has zero counters (R106). -/
abbrev SendLaw (s : State) : Prop :=
  ∀ (p : Station) (c : Cls),
    s.tx.seqs p c =
      (List.range (dist (look2 s.tx.counters p c).acked (look2 s.tx.counters p c).next)).map
        (fun k => some ((look2 s.tx.counters p c).acked + BitVec.ofNat 8 k)) ∧
    dist (look2 s.tx.counters p c).acked (look2 s.tx.counters p c).next ≤
      dist (look2 s.tx.counters p c).acked (look2 s.tx.counters p c).limit ∧
    dist (look2 s.tx.counters p c).acked (look2 s.tx.counters p c).limit ≤ 8 ∧
    (∀ q ∈ (look2 s.tx.counters p c).resend,
      dist (look2 s.tx.counters p c).acked q <
        dist (look2 s.tx.counters p c).acked (look2 s.tx.counters p c).next) ∧
    (s.isOpen p = false → look2 s.tx.counters p c = .zero)

/-- Is slot `i`'s message for `p` in class `c`? -/
def TransmitUnit.isFor (tx : TransmitUnit) (p : Station) (c : Cls) (i : TxIx) : Bool :=
  (tx.slot i).any fun r => r.destination = p && r.cls = c

/-- R74, R90, R114: a tie stands only while its MESSAGE is in hand, to a slot for an OPEN peer. A contending first
transmission is tied to the sending slot, carries S and has credit; a resend, and whatever has won, is tied to the slot
that carries its seq in flight. A slot is SENDING only as the slot of such a first transmission. -/
abbrev TieLaw (s : State) : Prop :=
  (∀ t ∈ s.tx.tie,
    (s.line.state = .contending ∨ s.line.state = .transmitting) ∧
    s.arb.inHand.map (·.kind) = some (.message t.peer) ∧
    s.isOpen t.peer = true ∧ s.tx.isFor t.peer t.cls t.slot = true ∧
    (if t.first = true ∧ s.line.state = .contending then
      s.tx.sending = some t.slot ∧ t.seq = (look2 s.tx.counters t.peer t.cls).next ∧ 0 < s.tx.credit t.peer t.cls
    else s.tx.carries t.seq t.slot = true)) ∧
  (∀ i ∈ s.tx.sending,
    s.line.state = .contending ∧ s.tx.tie.any (fun t => t.first && t.slot = i) = true)

/-- R69, R75, R78, R91 to R93: what a slot's record holds by its state. The length is 1 to 500, and the payload has it until
the slot is DONE. The transmit count is 0 while QUEUED or SENDING and 1 to 16 while IN_FLIGHT; a SENT slot keeps its
count with reason NONE, a CANCELLED one has count 0 and reason NONE, a DROPPED one has the reason of its close. -/
def TxRecord.lawful (r : TxRecord) : Bool :=
  1 ≤ r.length && r.length ≤ 500 &&
    match r.state with
    | .queued | .sending => r.payload.length = r.length && r.transmitCount = 0
    | .inFlight _ => r.payload.length = r.length && 1 ≤ r.transmitCount && r.transmitCount ≤ 16
    | .done .sent reason => r.payload = [] && 1 ≤ r.transmitCount && r.transmitCount ≤ 16 && reason = .none
    | .done .cancelled reason => r.payload = [] && r.transmitCount = 0 && reason = .none
    | .done .dropped reason => r.payload = [] && r.transmitCount ≤ 16 && reason ≠ .none

/-- Is the slot FREE, or its record as its state has it? -/
def TxSlot.isLawful : TxSlot → Bool
  | .held r => r.lawful
  | .free => true

/-- R69: every slot's record is as its state has it. -/
abbrev RecordLaw (s : State) : Prop := ∀ i : TxIx, (look s.tx.pool i).isLawful = true

/-- R101: an ack timer runs only while something is in flight to its peer. -/
abbrev AckTimerLaw (s : State) : Prop :=
  ∀ p : Station, (look s.tx.ackTimers p).isRunning = true → ∃ c : Cls, look2 s.tx.flights p c ≠ []

/-- How many records a COMPLETIONS has still to clock out (R80). -/
def TxnCommand.recordsLeft : TxnCommand → Option Nat
  | .completions left => some left
  | _ => .none

/-- R80, R81: the records a COMPLETIONS has still to clock out stand in the completion queue. -/
abbrev CompletionsLaw (s : State) : Prop :=
  ∀ x ∈ s.port.txn, ∀ left ∈ x.command.recordsLeft, left ≤ s.tx.completions.length

/-- Every law of the Transmit Unit, with those of the line and the sessions they rest on. -/
abbrev TransmitLaws (s : State) : Prop :=
  QuietLaw s ∧ LineLaw s ∧ SlotLaw s ∧ SendLaw s ∧ TieLaw s ∧ RecordLaw s ∧ AckTimerLaw s ∧ CompletionsLaw s

/-- Every law of the Receive Unit, with those of the configuration and the sessions they rest on. -/
abbrev ReceiveLaws (s : State) : Prop :=
  QuietLaw s ∧ ConfigLaw s ∧ OwnLaw s ∧ PoolLaw s ∧ QueueLaw s ∧ GrantLaw s ∧ TakeLaw s ∧ BlankLaw s

/-! ## What statements say of a next state

Each of these is a relation between a state and the next one, written from its rule and not from the operation that
carries it out. -/

/-- The blocks of the state, and the model's own counter of draws. -/
inductive Block where
  | control
  | session
  | rx
  | tx
  | arb
  | line
  | port
  | draws
deriving DecidableEq, Repr

/-- Every block not in `written` is as before, and so are the commands waiting. Of the port ATTN is left out: it follows
every command (R149), as one statement says for all of them. -/
abbrev OnlyWrites (written : List Block) (s t : State) : Prop :=
  (Block.control ∉ written → t.control = s.control) ∧
  (Block.session ∉ written → t.session = s.session) ∧
  (Block.rx ∉ written → t.rx = s.rx) ∧
  (Block.tx ∉ written → t.tx = s.tx) ∧
  (Block.arb ∉ written → t.arb = s.arb) ∧
  (Block.line ∉ written → t.line = s.line) ∧
  (Block.port ∉ written → t.port = { s.port with attn := t.port.attn }) ∧
  (Block.draws ∉ written → t.draws = s.draws) ∧
  t.pending = s.pending

/-! ### The port -/

/-- The open transaction, if it has taken no command yet. -/
def State.openTxn (s : State) : Option Transaction := s.port.txn.filter fun x => x.command = .none

/-- The port is `h` now, ATTN aside. -/
abbrev PortBecomes (h : HostPort) (t : State) : Prop := t.port = { h with attn := t.port.attn }

/-- R145, R147, R28: an open STATUS or PEERS after the fault flags `flags` and the changed flags of the peers `peers` have
been set. Each remembers what was set since its snapshot, whether or not it was set before; no other command remembers
anything. -/
def TxnCommand.sinceSet (flags : FaultName → Bool) (peers : Station → Bool) : TxnCommand → TxnCommand
  | .status shown errors since full =>
    .status shown errors
      ⟨since.duplicateStation || flags .duplicateStation, since.lineFault || flags .lineFault,
        since.creditOverrun || flags .creditOverrun⟩ full
  | .peers q since full => .peers q (since || peers q) full
  | c => c

/-- The port after those flags have been set, ATTN aside: an open transaction stays open with its summary and its reply
(R143), and an open STATUS or PEERS remembers what was set. -/
abbrev PortNotes (flags : FaultName → Bool) (peers : Station → Bool) (s t : State) : Prop :=
  PortBecomes { s.port with txn := s.port.txn.map fun x => { x with command := x.command.sinceSet flags peers } } t

/-- Transaction `x` has taken command `c`, and MISO carries `reply` from byte 2, then zeros (R138). -/
abbrev Answers (x : Transaction) (c : TxnCommand) (reply : List Byte) (s t : State) : Prop :=
  PortBecomes { s.port with txn := some { x with command := c, reply := reply } } t

/-- Transaction `x` has taken a command without a reply whose result is `r`. -/
abbrev Ends (x : Transaction) (r : Result) (s t : State) : Prop := Answers x (.decided r) [] s t

/-- The conditions of the summary's bits, bit 7 down to bit 0 (R139, section 10.2). -/
def State.conditions (s : State) : List Bool :=
  [s.control.station = .active,
    s.control.faults.duplicateStation || s.control.faults.lineFault || s.control.faults.creditOverrun,
    stations.any fun p => s.own ≠ some p && (s.entry p).changed,
    !s.tx.completions.isEmpty,
    !(look s.rx.queues 3).isEmpty, !(look s.rx.queues 2).isEmpty, !(look s.rx.queues 1).isEmpty,
    !(look s.rx.queues 0).isEmpty]

/-! ### Sessions -/

/-- Every entry but `p`'s is as before. -/
abbrev OthersKeep (p : Station) (s t : State) : Prop := ∀ q : Station, q ≠ p → t.entry q = s.entry q

/-- R9: `p`'s entry is in fresh JOINING with a newly drawn own tag and the peer tag given, the tag counter has advanced
(R4), and `p` is in the JOIN set. The changed flag and the last close reason are as in `e`. -/
abbrev FreshlyJoins (p : Station) (peerTag : Tag) (e : PeerEntry) (s t : State) : Prop :=
  t.entry p =
    { state := .joining, ownTag := s.record.incarnation ++ s.control.tagCounter, peerTag := peerTag, joinAttempts := 1,
      changed := e.changed, lastClose := e.lastClose, joinTimer := .running (s.record.joinInterval + 1),
      holdDownTimer := .stopped, silenceTimer := .stopped, refreshTimer := .stopped } ∧
  OthersKeep p s t ∧
  t.control =
    { s.control with tagCounter := if s.control.tagCounter = 255 then 1 else s.control.tagCounter + 1 }

/-- R10, steps 1 to 3: `p`'s entry is OPEN under peer tag `peerTag`, its silence and refresh timers started. -/
abbrev EntryOpens (p : Station) (peerTag : Tag) (s t : State) : Prop :=
  t.entry p =
    { s.entry p with
      state := .opened, peerTag := peerTag, changed := true, joinTimer := .stopped,
      silenceTimer := .running (s.record.silenceMultiple * s.record.refreshInterval + 1),
      refreshTimer := .running (s.record.refreshInterval + 1) } ∧
  OthersKeep p s t

/-- The slots class `c` has to reserve for `p` at an open: the grant less the carryover (R35, step 2). -/
def State.toReserve (s : State) (p : Station) (c : Cls) : Nat :=
  look s.record.grants c - (look2 s.rx.records p c).occupied

/-- R35: in every class A is 0, and reserved and L are the grant less the unread messages; that many FREE slots are
RESERVED now; no other slot, record or queue is changed. -/
abbrev ReservationMade (p : Station) (s t : State) : Prop :=
  (∀ (q : Station) (c : Cls), look2 t.rx.records q c =
    if q = p then
      ⟨0, BitVec.ofNat 8 (s.toReserve p c), s.toReserve p c, (look2 s.rx.records p c).occupied⟩
    else look2 s.rx.records q c) ∧
  (∀ c : Cls, countIn (RxSlot.isReserved p c) t.rx.pool =
    countIn (RxSlot.isReserved p c) s.rx.pool + s.toReserve p c) ∧
  (∀ i : RxIx, look t.rx.pool i = look s.rx.pool i ∨
    look s.rx.pool i = .free ∧ ∃ c : Cls, look t.rx.pool i = .reserved p c) ∧
  t.rx.queues = s.rx.queues

/-- R10, steps 5 and 6: `p` is out of the JOIN set, a JOIN to `p` in hand is withdrawn, and `p` is in the TALLY set. -/
abbrev OpenClaims (p : Station) (s t : State) : Prop :=
  t.arb =
    { s.arb with
      joins := put s.arb.joins p false
      tallies := put s.arb.tallies p true
      inHand := s.arb.inHand.map fun h => if h.kind = .join p then { h with withdrawn := true } else h }

/-- R11, steps 2 to 5: `p`'s entry has gone to `dest` with `reason`; into LOST its hold-down timer is started. -/
abbrev EntryCloses (reason : CloseReason) (dest : PeerState) (p : Station) (s t : State) : Prop :=
  t.entry p =
    { state := dest, ownTag := 0, peerTag := 0, joinAttempts := (s.entry p).joinAttempts, changed := true,
      lastClose := reason, joinTimer := .stopped,
      holdDownTimer := if dest = .lost then .running (s.record.holdDown * 10 + 1) else .stopped,
      silenceTimer := .stopped, refreshTimer := .stopped } ∧
  OthersKeep p s t

/-- R37: every slot RESERVED for `p` is FREE, and A, L and reserved of `p` are 0; OCCUPIED slots, occupied counts and
queues stay. -/
abbrev ReservationsFreed (p : Station) (s t : State) : Prop :=
  (∀ i : RxIx, look t.rx.pool i =
    if ∃ c : Cls, look s.rx.pool i = .reserved p c then .free else look s.rx.pool i) ∧
  (∀ (q : Station) (c : Cls), look2 t.rx.records q c =
    if q = p then ⟨0, 0, 0, (look2 s.rx.records p c).occupied⟩ else look2 s.rx.records q c) ∧
  t.rx.queues = s.rx.queues

/-- The slots a close of `p` other than RESTART completes, in the order of R105. -/
def State.doomed (s : State) (p : Station) : List TxIx :=
  classes.flatMap fun c =>
    look2 s.tx.flights p c ++ (s.tx.sending.filter (s.tx.isFor p c)).toList ++ look2 s.tx.queues p c

/-- The slots in flight to `p`, in class and list order. -/
def State.flying (s : State) (p : Station) : List TxIx := classes.flatMap fun c => look2 s.tx.flights p c

/-- The slots `is` are DONE with `status` and `reason`, each keeping what its record reports, and stand at the tail of the
completion queue in the order given; slots neither in `is` nor in `but` are as before (R69, R77). -/
abbrev Completed (status : CompletionStatus) (reason : CloseReason) (is but : List TxIx) (s t : State) : Prop :=
  t.tx.completions = s.tx.completions ++ is ∧
  (∀ i ∈ is, ∀ r ∈ s.tx.slot i,
    look t.tx.pool i = .held { r with payload := [], order := 0, state := .done status reason }) ∧
  ∀ i : TxIx, i ∉ is → i ∉ but → look t.tx.pool i = look s.tx.pool i

/-- R106: the send counters, ack timer and retry count of `p` are at 0. -/
abbrev SendSideZero (p : Station) (t : State) : Prop :=
  (∀ c : Cls, look2 t.tx.counters p c = ⟨0, 0, 0, none⟩) ∧
  look t.tx.ackTimers p = .stopped ∧ look t.tx.retries p = 0

/-- The send side of every peer but `p` is as before. -/
abbrev OtherSendSidesKeep (p : Station) (s t : State) : Prop :=
  ∀ q : Station, q ≠ p →
    look t.tx.queues q = look s.tx.queues q ∧ look t.tx.flights q = look s.tx.flights q ∧
    look t.tx.counters q = look s.tx.counters q ∧ look t.tx.ackTimers q = look s.tx.ackTimers q ∧
    look t.tx.retries q = look s.tx.retries q

/-- R105, R106: the send side of a close of `p` other than RESTART. -/
abbrev SendSideCloses (reason : CloseReason) (p : Station) (s t : State) : Prop :=
  Completed .dropped reason (s.doomed p) [] s t ∧
  (∀ c : Cls, look2 t.tx.queues p c = [] ∧ look2 t.tx.flights p c = []) ∧
  SendSideZero p t ∧ OtherSendSidesKeep p s t ∧
  t.tx.sending = s.tx.sending.filter (fun i => !classes.any fun c => s.tx.isFor p c i) ∧
  t.tx.tie = s.tx.tie.filter (·.peer ≠ p) ∧ t.tx.nextOrder = s.tx.nextOrder

/-- R106, R107: the send side of a RESTART close of `p`: in-flight slots DROPPED, the SENDING slot back at the head of its
queue with transmit count 0, QUEUED slots kept. -/
abbrev SendSideRestarts (p : Station) (s t : State) : Prop :=
  Completed .dropped .restart (s.flying p) s.tx.sending.toList s t ∧
  (∀ i ∈ s.tx.sending, look t.tx.pool i =
    match look s.tx.pool i with
    | .held r => if r.destination = p then .held { r with state := .queued, transmitCount := 0 } else .held r
    | .free => .free) ∧
  (∀ c : Cls, look2 t.tx.queues p c = (s.tx.sending.filter (s.tx.isFor p c)).toList ++ look2 s.tx.queues p c ∧
    look2 t.tx.flights p c = []) ∧
  SendSideZero p t ∧ OtherSendSidesKeep p s t ∧
  t.tx.sending = s.tx.sending.filter (fun i => !classes.any fun c => s.tx.isFor p c i) ∧
  t.tx.tie = s.tx.tie.filter (·.peer ≠ p) ∧ t.tx.nextOrder = s.tx.nextOrder

/-- R13: `p` is out of the JOIN and TALLY sets, such a frame to `p` in hand is withdrawn, and the SEVER claim, if the
close has one, is posted. -/
abbrev ClaimsClose (sever : Option SeverClaim) (p : Station) (s t : State) : Prop :=
  t.arb =
    { s.arb with
      joins := put s.arb.joins p false
      tallies := put s.arb.tallies p false
      severs := match sever with
        | some c => put s.arb.severs p (some c)
        | none => s.arb.severs
      inHand := s.arb.inHand.map fun h =>
        if h.kind = .join p ∨ h.kind = .tally p then { h with withdrawn := true } else h }

/-- R11 to R13: a close of `p`'s entry other than RESTART, with every block's share. -/
abbrev Closes (reason : CloseReason) (dest : PeerState) (sever : Option SeverClaim) (p : Station) (s t : State) : Prop :=
  EntryCloses reason dest p s t ∧ ReservationsFreed p s t ∧ SendSideCloses reason p s t ∧ ClaimsClose sever p s t ∧
  PortNotes (fun _ => false) (· = p) s t

/-- R11 to R13 with R9: a RESTART close of `p`'s entry and the fresh JOINING that follows it. -/
abbrev Restarts (p : Station) (peerTag : Tag) (s t : State) : Prop :=
  FreshlyJoins p peerTag { s.entry p with changed := true, lastClose := .restart } s t ∧
  ReservationsFreed p s t ∧ SendSideRestarts p s t ∧
  t.arb =
    { s.arb with
      joins := put s.arb.joins p true
      tallies := put s.arb.tallies p false
      inHand := s.arb.inHand.map fun h =>
        if h.kind = .join p ∨ h.kind = .tally p then { h with withdrawn := true } else h } ∧
  PortNotes (fun _ => false) (· = p) s t

/-- The SEVER that a close with `reason` claims, under the tags before it (R13). -/
def PeerEntry.severFor (e : PeerEntry) (reason : SeverReason) : SeverClaim := ⟨e.ownTag, e.peerTag, reason⟩

/-! ### Frames of other stations -/

/-- The station is ACTIVE and is assembling a frame of station `p`, which is a peer. -/
abbrev Hears (p : Station) (s : State) : Prop :=
  s.control.station = .active ∧ s.line.state = .receiving .frame ∧ s.own ≠ some p

/-- A frame has ended: the line reads the gap (R125). -/
abbrev FrameEnded (s t : State) : Prop := t.line = { s.line with state := .receiving .gap }

/-- `p`'s entry after the heard update (R8). -/
def State.heardEntry (s : State) (p : Station) : PeerEntry :=
  if (s.entry p).state = .opened then
    { s.entry p with silenceTimer := .running (s.record.silenceMultiple * s.record.refreshInterval + 1) }
  else s.entry p

/-- The commands by which a frame of another station ends. -/
def isReception : Instr → Bool
  | .frameDiscard _ | .announceReceived _ _ | .joinReceived _ _ _ | .severReceived _ _ _ _ | .tallyReceived _ _ _ _
  | .messageReceived _ _ _ _ _ _ | .frameAddressedToAnotherStation _ _ => true
  | _ => false

/-- The source of a good frame of another station. -/
def receivedFrom : Instr → Option Station
  | .announceReceived p _ | .joinReceived p _ _ | .severReceived p _ _ _ | .tallyReceived p _ _ _
  | .messageReceived p _ _ _ _ _ | .frameAddressedToAnotherStation _ p => some p
  | _ => none

/-- Does slot `i` carry a seq in flight that lies before `a`, measured from `acked` (R98)? -/
def State.ackedBefore (s : State) (acked a : Count) (i : TxIx) : Bool :=
  match s.tx.slot i with
  | some r => match r.state with
    | .inFlight q => decide (dist acked q < dist acked a)
    | _ => false
  | none => false

/-! ### Selection -/

/-- How many stations a count upward from `ptr + 1` passes before it comes to `p` (R113). -/
def turn (ptr p : Station) : Nat := (p - ptr - 1).val

/-- `p` is the first station satisfying `f`, counting upward from `ptr + 1` and wrapping from 15 to 0 (R113). -/
abbrev ServedNext (ptr : Station) (f : Station → Bool) (p : Station) : Prop :=
  f p = true ∧ ∀ q : Station, f q = true → turn ptr p ≤ turn ptr q

/-- R114: `p` has a resend due in class `c`, from slot `i` with seq `q`. -/
abbrev ResendDue (s : State) (p : Station) (c : Cls) (i : TxIx) (q : Count) : Prop :=
  (s.entry p).state = .opened ∧ (look2 s.tx.counters p c).resend = some q ∧
  i ∈ look2 s.tx.flights p c ∧ s.tx.carries q i = true

/-- R87, R114: slot `i` is an eligible head of `p` in class `c`. -/
abbrev HeadEligible (s : State) (p : Station) (c : Cls) (i : TxIx) : Prop :=
  (s.entry p).state = .opened ∧ (look2 s.tx.counters p c).resend = none ∧
  0 < dist (look2 s.tx.counters p c).next (look2 s.tx.counters p c).limit ∧
  (look2 s.tx.queues p c).head? = some i

/-- R114: `p` has something sendable in class `c`. -/
def State.hasSendable (s : State) (p : Station) (c : Cls) : Bool :=
  decide (∃ i : TxIx, HeadEligible s p c i) || decide (∃ i : TxIx, ∃ q ∈ (look2 s.tx.counters p c).resend,
    ResendDue s p c i q)

/-- R112, R115: what is offered before data: no ANNOUNCE, SEVER, JOIN or TALLY stands in the way. -/
abbrev DataOffered (s : State) : Prop :=
  s.control.station = .active ∧ s.arb.announce = false ∧ (∀ p : Station, look s.arb.severs p = none) ∧
  (∀ p : Station, look s.arb.joins p = false) ∧ (∀ p : Station, look s.arb.tallies p = false) ∧ s.arb.yield = false

/-- R112, R114: data of peer `p` in class `c` is what a selection serves. -/
abbrev DataServed (s : State) (p : Station) (c : Cls) : Prop :=
  DataOffered s ∧ (∀ (d : Cls), d < c → ∀ q : Station, s.hasSendable q d = false) ∧
  ServedNext (look s.arb.dataPtrs c) (fun q => s.hasSendable q c) p

/-- Is the line RECEIVING outside a frame (R125)? -/
def LineState.isBetweenFrames : LineState → Bool
  | .receiving .unsynchronized | .receiving .gap | .receiving .passing => true
  | _ => false

/-- Command `i` brings about a selection at `u`: on an idle line; at its beginning, when an abort marker is behind it; or at
the end of its window, when the yield flag clears first (R112, R115, R125). -/
abbrev SelectsFrom (i : Instr) (s u : State) : Prop :=
  (s.control.station = .active ∨ s.control.station = .leaving) ∧ s.line.outbound = none ∧
  ((i = .frameBuild ∧ s.line.state = .idle ∧ u = s) ∨
    (i = .idleBegun ∧ s.line.state.isBetweenFrames = true ∧ u = { s with line := { s.line with marker := false } }) ∨
    (i = .windowOut ∧ s.line.state = .idle ∧ u = { s with arb := { s.arb with yield := false } }))

/-- A frame stands in the outbound buffer and in hand, and the line contends with it (R116, R126). -/
abbrev Contends (k : HandKind) (f : Frame) (s t : State) : Prop :=
  t.line = { s.line with outbound := some f, state := .contending } ∧ t.arb.inHand = some ⟨k, false⟩

/-! ### The host's records -/

/-- A number's two bytes, most significant first (R137). -/
def twoBytes (n : Nat) : List Byte := [BitVec.ofNat 8 (n / 256), BitVec.ofNat 8 n]

/-- The take header of message `m` with `remaining` messages behind it (R58, section 10.2). -/
def headerOf (m : MsgRecord) (remaining : Nat) : List Byte :=
  [BitVec.ofNat 8 m.source.val, BitVec.ofNat 8 m.cls.val] ++ twoBytes m.length ++ [BitVec.ofNat 8 remaining]

/-- The completion record of slot `i`, if it is DONE (R79, section 10.2). -/
def State.reportOf (s : State) (i : TxIx) : List Byte :=
  match look s.tx.pool i with
  | .held r => match r.state with
    | .done status reason =>
      twoBytes r.hostTag.toNat ++
        [BitVec.ofNat 8 r.destination.val, BitVec.ofNat 8 r.cls.val, status.code, reason.code,
          BitVec.ofNat 8 r.transmitCount, 0]
    | _ => []
  | .free => []

/-- The first check of R71 that fails, with its result: the checks in the table's order. -/
def State.submitRefusal (s : State) (dest cls : Byte) (length : BitVec 16) (carried : Nat) : Option Result :=
  ([(decide (s.control.station = .active), Result.wrongState),
    (decide (dest.toNat ≤ 15 ∧ s.own.map (·.val) ≠ some dest.toNat), .badDest),
    (decide (cls.toNat ≤ 3), .badClass),
    (decide (1 ≤ length.toNat ∧ length.toNat ≤ 500), .badLength),
    (decide (length.toNat ≤ carried), .short),
    (decide (∃ p : Station, p.val = dest.toNat ∧ ((s.entry p).state = .joining ∨ (s.entry p).state = .opened)), .peerDown),
    (decide (∃ i : TxIx, look s.tx.pool i = .free), .noSlot)].find? fun check => !check.1).map (·.2)

/-- The commands the host sends: those a transaction's MOSI bytes spell (section 10.2). -/
def isHostCommand (i : Instr) : Bool := (mosiOf i).isSome

/-! ### Every session at once -/

/-- R14: every entry that was not ABSENT is closed with `reason` (LEFT or MUTED), with every block's share but the
arbiter's; what belongs to ABSENT entries stays. The order of the closes, and so of their completions among the peers, is
not the manual's. -/
abbrev AllClose (reason : CloseReason) (s t : State) : Prop :=
  (∀ p : Station, t.entry p =
    if (s.entry p).state = .absent then s.entry p
    else { PeerEntry.reset with joinAttempts := (s.entry p).joinAttempts, changed := true, lastClose := reason }) ∧
  (∀ i : RxIx, look t.rx.pool i =
    match look s.rx.pool i with
    | .reserved p c => if (s.entry p).state = .absent then .reserved p c else .free
    | x => x) ∧
  (∀ (p : Station) (c : Cls), look2 t.rx.records p c =
    if (s.entry p).state = .absent then look2 s.rx.records p c else ⟨0, 0, 0, (look2 s.rx.records p c).occupied⟩) ∧
  t.rx.queues = s.rx.queues ∧
  (∀ p : Station,
    if (s.entry p).state = .absent then
      (∀ c : Cls, look2 t.tx.queues p c = look2 s.tx.queues p c ∧ look2 t.tx.flights p c = look2 s.tx.flights p c ∧
        look2 t.tx.counters p c = look2 s.tx.counters p c) ∧
      look t.tx.ackTimers p = look s.tx.ackTimers p ∧ look t.tx.retries p = look s.tx.retries p
    else (∀ c : Cls, look2 t.tx.queues p c = [] ∧ look2 t.tx.flights p c = []) ∧ SendSideZero p t) ∧
  (∀ (i : TxIx) (r : TxRecord), look s.tx.pool i = .held r → look t.tx.pool i =
    if ∃ p : Station, (s.entry p).state ≠ .absent ∧ i ∈ s.doomed p then
      .held { r with payload := [], order := 0, state := .done .dropped reason }
    else .held r) ∧
  (∀ i : TxIx, look s.tx.pool i = .free → look t.tx.pool i = .free) ∧
  (∃ ps : List Station, ps.Nodup ∧ (∀ p : Station, p ∈ ps ↔ (s.entry p).state ≠ .absent) ∧
    t.tx.completions = s.tx.completions ++ ps.flatMap s.doomed) ∧
  t.tx.sending = s.tx.sending.filter (fun i =>
    !stations.any fun p => (s.entry p).state ≠ .absent && classes.any fun c => s.tx.isFor p c i) ∧
  t.tx.tie = s.tx.tie.filter (fun k => (s.entry k.peer).state = .absent) ∧ t.tx.nextOrder = s.tx.nextOrder

/-- R158: the station is MUTED with flag `f` set: every entry that was not ABSENT is closed MUTED, every pending set is
empty, nothing is in hand, and the line is SILENT with its buffer empty. An open transaction stays open (R143), with the
flag and the changed flags of the entries closed as set now. An abort marker just driven stays the last on the line. -/
abbrev Mutes (f : FaultName) (s t : State) : Prop :=
  t.control = { s.control with station := .muted, faults := s.control.faults.set f } ∧
  AllClose .muted s t ∧
  t.arb =
    { s.arb with
      announce := false, severs := Vector.replicate 16 none, joins := Vector.replicate 16 false,
      tallies := Vector.replicate 16 false, yield := false, inHand := none } ∧
  t.line = { s.line with state := .silent, outbound := none, aborts := t.line.aborts } ∧
  PortNotes (· = f) (fun p => (s.entry p).state ≠ .absent) s t ∧
  t.pending = s.pending

/-! ### The end of a frame -/

/-- R118: the record of frame `h` has ended by a loss or an abort. Unless the frame was withdrawn its claim is back: the
ANNOUNCE flag while the station is ACTIVE, a JOIN or TALLY claim, a SEVER claim with its contents where no newer one
stands; a MESSAGE has none. -/
abbrev ClaimRestored (h : InHand) (active : Bool) (a b : Arbiter) : Prop :=
  b =
    { a with
      inHand := none
      announce := a.announce || (!h.withdrawn && h.kind = .announce && active)
      severs :=
        match h.kind with
        | .sever p c =>
          if h.withdrawn = false ∧ look a.severs p = none then put a.severs p (some c) else a.severs
        | _ => a.severs
      joins :=
        match h.kind with
        | .join p => if h.withdrawn then a.joins else put a.joins p true
        | _ => a.joins
      tallies :=
        match h.kind with
        | .tally p => if h.withdrawn then a.tallies else put a.tallies p true
        | _ => a.tallies }

end Sys2Proof.Machine
end

