-- ==== Sys2Proof/Certificates/Slice0/Obligations.lean ====
section
/-! DEFINITION. The statements for the provers, in the order of OBLIGATIONS.json: the step, the resets, the commands of
each chapter, the laws that every step keeps, and the two encodings. A statement says a next state's every block: what
its rules write, and through `OnlyWrites` that nothing else is written; ATTN is stated once for all commands. -/

open Sys2Proof Sys2Proof.Machine

/-! ## The step and the time base -/

/-- A step runs the command at the front of the queue on the state with the queue's rest (the queue is the model's own,
assumption log 14). -/
def Obligations.StepRunsFrontCommand : Prop :=
  ∀ (c : Instr) (rest : List Instr) (s : State), step { s with pending := c :: rest } = exec c { s with pending := rest }

/-- The model's choice (assumption log 2): a step on an empty queue is one tick of the time base (R163). Every timer
counts one tick; the timers that have run out, and no others, give one expiry each; nothing else changes. -/
def Obligations.IdleStepIsOneTick : Prop :=
  ∀ s : State, s.pending = [] → ∃ t : State, step s = .next t ∧
    (∀ p : Station, t.entry p =
      { s.entry p with
        joinTimer := (s.entry p).joinTimer.tick, holdDownTimer := (s.entry p).holdDownTimer.tick,
        silenceTimer := (s.entry p).silenceTimer.tick, refreshTimer := (s.entry p).refreshTimer.tick }) ∧
    (∀ p : Station, look t.tx.ackTimers p = (look s.tx.ackTimers p).tick) ∧
    t.tx = { s.tx with ackTimers := t.tx.ackTimers } ∧
    t.control = s.control ∧ t.rx = s.rx ∧ t.arb = s.arb ∧ t.line = s.line ∧ t.port = s.port ∧
    t.pending.Nodup ∧
    ∀ c : Instr, c ∈ t.pending ↔ ∃ p : Station,
      c = .joinTimerExpiry p ∧ (t.entry p).joinTimer = .running 0 ∨
      c = .holdDownExpiry p ∧ (t.entry p).holdDownTimer = .running 0 ∨
      c = .silenceExpiry p ∧ (t.entry p).silenceTimer = .running 0 ∨
      c = .refreshExpiry p ∧ (t.entry p).refreshTimer = .running 0 ∨
      c = .ackTimerExpiry p ∧ look t.tx.ackTimers p = .running 0

/-- R163: a timer started with an interval of `v` ms runs out at the (v + 1)-th tick after its start and at none before;
a stopped timer runs out at none. -/
def Obligations.TimerExpiresAfterInterval : Prop :=
  ∀ v k : Nat, k ≤ v + 1 →
    ((Timer.tick^[k] (Timer.start v)).due = true ↔ k = v + 1) ∧ (Timer.tick^[k] Timer.stopped).due = false

/-- R149: after every command ATTN is asserted exactly while some condition of the summary holds whose mask bit is set,
position by position. That each command answers a next state in every state is read from the manual as a whole
(assumption log 17, DEDUCED); that it leaves the commands waiting as they are is the model's choice (assumption logs 14
and 11). -/
def Obligations.EveryCommandAnswersAndDrivesAttn : Prop :=
  ∀ (c : Instr) (s : State), ∃ t : State, exec c s = .next t ∧ t.pending = s.pending ∧
    (t.port.attn = true ↔ ∃ k : Fin 8, t.conditions[k.val]? = some true ∧ t.control.mask.getMsbD k.val = true)

/-! ## Reset -/

/-- R3, R53, R85, R89, R121, R136, R151, R162: what reset leaves, block by block. -/
def Obligations.ResetStateValues : Prop :=
  State.reset.control = ⟨.unconfigured, none, 1, ⟨false, false, false⟩, 0⟩ ∧
  (∀ p : Station, State.reset.entry p =
    ⟨.absent, 0, 0, 0, false, .none, .stopped, .stopped, .stopped, .stopped⟩) ∧
  (∀ i : RxIx, look State.reset.rx.pool i = .free) ∧
  (∀ (p : Station) (c : Cls), look2 State.reset.rx.records p c = ⟨0, 0, 0, 0⟩) ∧
  (∀ c : Cls, look State.reset.rx.queues c = []) ∧
  (∀ i : TxIx, look State.reset.tx.pool i = .free) ∧
  (∀ (p : Station) (c : Cls), look2 State.reset.tx.queues p c = [] ∧ look2 State.reset.tx.flights p c = [] ∧
    look2 State.reset.tx.counters p c = ⟨0, 0, 0, none⟩) ∧
  (∀ p : Station, look State.reset.tx.ackTimers p = .stopped ∧ look State.reset.tx.retries p = 0) ∧
  State.reset.tx.completions = [] ∧ State.reset.tx.sending = none ∧ State.reset.tx.tie = none ∧
  State.reset.arb.announce = false ∧
  (∀ p : Station, look State.reset.arb.severs p = none ∧ look State.reset.arb.joins p = false ∧
    look State.reset.arb.tallies p = false) ∧
  State.reset.arb.severPtr = 0 ∧ State.reset.arb.joinPtr = 0 ∧ State.reset.arb.tallyPtr = 0 ∧
  (∀ c : Cls, look State.reset.arb.dataPtrs c = 0) ∧
  State.reset.arb.yield = false ∧ State.reset.arb.inHand = none ∧
  State.reset.line = ⟨.silent, none, 0, 0, false⟩ ∧
  State.reset.port.txn = none ∧ State.reset.port.prevResult = .none ∧ State.reset.port.staging = [] ∧
  State.reset.port.attn = false

/-- R161, R151, R130: the three resets are one; each leaves every block at its reset values, the line without an abort
marker, and an open transaction cut. RST falling holds the station there with MISO undriven, and its rise ends the
reset; POWER_ON ends with RST high, or lasts on with RST low; the RESET command ends with CS high. A rise of RST that is
high already does not arise (assumption log 12). That the commands waiting and the model's own counter stay is the
model's choice (assumption log 11). -/
def Obligations.ThreeResetsAreOne : Prop :=
  ∀ s : State,
    (∃ t : State, exec (.resetPin .falls) s = .next t ∧ t = s.held ∧ t.ltxBits = [] ∧ ∀ k : Nat, t.miso k = none) ∧
    (∀ move : PinMove, move = .rises ∧ s.port.rst = .low ∨ move = .pulse →
      exec (.resetPin move) s = .next { State.reset with
        port := { State.reset.port with cs := s.port.cs }, draws := s.draws, pending := s.pending }) ∧
    (s.port.rst = .high → ∃ t : State, exec (.resetPin .rises) s = .next t ∧ OnlyWrites [] s t) ∧
    (∀ pins : PinLevels, exec (.powerOn pins) s = .next { State.reset with
      port := { State.reset.port with cs := pins.cs, rst := pins.rst }, draws := s.draws, pending := s.pending }) ∧
    ∀ x : Transaction, s.openTxn = some x →
      exec .reset s = .next { State.reset with
        port := { State.reset.port with cs := .high, rst := s.port.rst }, draws := s.draws, pending := s.pending }

/-! ## Station States -/

/-- R154: a CONFIGURE that passes every check is applied: the record replaces the one in force, the station is
CONFIGURED, and a changed own number returns its new position to reset values (R2); the result is OK. -/
def Obligations.ConfigureAppliesRecord : Prop :=
  ∀ (s : State) (x : Transaction) (image : ConfigImage) (r : ConfigRecord), s.openTxn = some x →
    validRecord image = some r →
    (s.control.station = .unconfigured ∨
      s.control.station = .configured ∧ ∀ i : RxIx, (look s.rx.pool i).isOccupied = false) →
    ∃ t : State, exec (.configure image) s = .next t ∧
      t.control = { s.control with config := some r, station := .configured } ∧
      (∀ p : Station, t.entry p =
        if p = r.ownStation ∧ ∃ o ∈ s.own, o ≠ r.ownStation then .reset else s.entry p) ∧
      Ends x .ok s t ∧ OnlyWrites [.control, .session, .port] s t

/-- R154 to R156: where a station command is refused, the first check that fails gives the result and nothing changes:
CONFIGURE in ACTIVE, LEAVING and MUTED, by an invalid record, and in CONFIGURED by an OCCUPIED slot; START outside
CONFIGURED; LEAVE in UNCONFIGURED, CONFIGURED and MUTED. In LEAVING a LEAVE has no effect and its result is OK. -/
def Obligations.StationCommandRefusals : Prop :=
  ∀ (s : State) (x : Transaction) (image : ConfigImage), s.openTxn = some x →
    (s.control.station ≠ .unconfigured → s.control.station ≠ .configured →
      ∃ t : State, exec (.configure image) s = .next t ∧ Ends x .wrongState s t ∧ OnlyWrites [.port] s t) ∧
    (s.control.station = .unconfigured ∨ s.control.station = .configured → validRecord image = none →
      ∃ t : State, exec (.configure image) s = .next t ∧ Ends x .badConfig s t ∧ OnlyWrites [.port] s t) ∧
    (s.control.station = .configured → validRecord image ≠ none →
      (∃ i : RxIx, (look s.rx.pool i).isOccupied = true) →
      ∃ t : State, exec (.configure image) s = .next t ∧ Ends x .poolBusy s t ∧ OnlyWrites [.port] s t) ∧
    (s.control.station ≠ .configured → ∃ t : State, exec .start s = .next t ∧
      Ends x .wrongState s t ∧ OnlyWrites [.port] s t) ∧
    (s.control.station ≠ .active → ∃ t : State, exec .leave s = .next t ∧
      Ends x (if s.control.station = .leaving then .ok else .wrongState) s t ∧ OnlyWrites [.port] s t)

/-- R153, R167: which bytes make a valid record, and what each field then is: the bits the table gives a field are read,
the bits above it ignored, and every range holds. -/
def Obligations.ConfigurationFieldsAndRanges : Prop :=
  ∀ (m : ConfigImage) (r : ConfigRecord), validRecord m = some r ↔
    r.ownStation.val = m.ownStation.toNat % 16 ∧ r.incarnation = m.incarnation ∧
    (m.bitRate = 0x01 ∧ r.bitRate = .one ∨ m.bitRate = 0x02 ∧ r.bitRate = .two ∨
      m.bitRate = 0x05 ∧ r.bitRate = .five ∨ m.bitRate = 0x0A ∧ r.bitRate = .ten) ∧
    look r.grants 0 = m.grant0.toNat % 16 ∧ look r.grants 1 = m.grant1.toNat % 16 ∧
    look r.grants 2 = m.grant2.toNat % 16 ∧ look r.grants 3 = m.grant3.toNat % 16 ∧
    (∀ c : Cls, look r.grants c ≤ 8) ∧
    1 ≤ look r.grants 0 + look r.grants 1 + look r.grants 2 + look r.grants 3 ∧
    look r.grants 0 + look r.grants 1 + look r.grants 2 + look r.grants 3 ≤ 16 ∧
    r.retryLimit = m.retryLimit.toNat % 16 ∧ 1 ≤ r.retryLimit ∧
    r.ackTimeout = m.ackTimeout.toNat ∧ 1 ≤ r.ackTimeout ∧
    r.refreshInterval = m.refreshInterval.toNat ∧ 5 ≤ r.refreshInterval ∧
    r.silenceMultiple = m.silenceMultiple.toNat % 16 ∧ 2 ≤ r.silenceMultiple ∧
    r.joinInterval = m.joinInterval.toNat ∧ 1 ≤ r.joinInterval ∧
    r.joinAttempts = m.joinAttempts.toNat % 16 ∧ 1 ≤ r.joinAttempts ∧
    r.holdDown = m.holdDown.toNat ∧ 1 ≤ r.holdDown

/-- R155: in CONFIGURED a START makes the station ACTIVE, sets the ANNOUNCE flag and takes the line out of SILENT,
unsynchronized, with no abort marker on it; the result is OK. -/
def Obligations.StartTakesTheLine : Prop :=
  ∀ (s : State) (x : Transaction), s.openTxn = some x → s.control.station = .configured →
    ∃ t : State, exec .start s = .next t ∧
      t.control = { s.control with station := .active } ∧ t.arb = { s.arb with announce := true } ∧
      t.line = { s.line with state := .receiving .unsynchronized, marker := false } ∧
      Ends x .ok s t ∧ OnlyWrites [.control, .arb, .line, .port] s t

/-- R156, R14, R119: a LEAVE in ACTIVE closes every entry that is not ABSENT with LEFT, with a SEVER claim under the
tags before it from JOINING and OPEN, and clears the ANNOUNCE flag; the station is LEAVING, or CONFIGURED and SILENT
where that leaves no SEVER to send and nothing is in hand (R157). The order of the closes is left open (assumption log
3), and what a DONE slot no longer needs is dropped (the model's choice, assumption log 16). -/
def Obligations.LeaveClosesEverySession : Prop :=
  ∀ (s : State) (x : Transaction), s.openTxn = some x → s.control.station = .active → LineLaw s →
    ∃ t : State, exec .leave s = .next t ∧ AllClose .left s t ∧
      (∀ p : Station, look t.arb.severs p =
        if (s.entry p).state = .joining ∨ (s.entry p).state = .opened then some ((s.entry p).severFor .left)
        else look s.arb.severs p) ∧
      (∀ p : Station,
        look t.arb.joins p = (decide ((s.entry p).state = .absent) && look s.arb.joins p) ∧
        look t.arb.tallies p = (decide ((s.entry p).state = .absent) && look s.arb.tallies p)) ∧
      t.arb =
        { s.arb with
          announce := false, severs := t.arb.severs, joins := t.arb.joins, tallies := t.arb.tallies,
          yield := t.arb.yield, inHand := t.arb.inHand } ∧
      t.arb.inHand = s.arb.inHand.map (fun h =>
        if h.kind = .announce ∨ ∃ p : Station, (s.entry p).state ≠ .absent ∧ (h.kind = .join p ∨ h.kind = .tally p) then
          { h with withdrawn := true }
        else h) ∧
      (if (∀ p : Station, look t.arb.severs p = none) ∧ s.arb.inHand = none then
        t.control = { s.control with station := .configured } ∧ t.line = { s.line with state := .silent } ∧
        t.arb.yield = false
      else
        t.control = { s.control with station := .leaving } ∧ t.line = s.line ∧ t.arb.yield = s.arb.yield) ∧
      PortBecomes { s.port with txn := some { x with command := .decided .ok, reply := [] } } t ∧
      OnlyWrites [.control, .session, .rx, .tx, .arb, .line, .port, .draws] s t

/-- R119, R157, R130, R115: a LEAVING station whose SEVER set is empty and whose hand is empty becomes CONFIGURED, its
line SILENT and its yield flag clear; at any other moment the report does not arise and nothing changes (the model's
choice, assumption logs 6 and 12). -/
def Obligations.DrainedStationIsConfigured : Prop :=
  ∀ s : State, LineLaw s →
    (s.control.station = .leaving → (∀ p : Station, look s.arb.severs p = none) → s.arb.inHand = none →
      ∃ t : State, exec .drained s = .next t ∧
        t.control = { s.control with station := .configured } ∧ t.line = { s.line with state := .silent } ∧
        t.arb = { s.arb with yield := false } ∧ OnlyWrites [.control, .line, .arb] s t) ∧
    (s.control.station ≠ .leaving ∨ (∃ p : Station, look s.arb.severs p ≠ none) ∨ s.arb.inHand ≠ none →
      ∃ t : State, exec .drained s = .next t ∧ OnlyWrites [] s t)

/-! ## Transmit Slots and Submission -/

/-- R71: a SUBMIT that passes every check puts its message into a FREE slot at the tail of its send queue, with transmit
count 0 and the next place in submission order; the result is OK. -/
def Obligations.SubmitQueuesMessage : Prop :=
  ∀ (s : State) (x : Transaction) (p : Station) (c : Cls) (hostTag length : BitVec 16) (payload : List Byte),
    s.openTxn = some x → s.control.station = .active → s.own ≠ some p →
    1 ≤ length.toNat → length.toNat ≤ 500 → length.toNat ≤ payload.length →
    (s.entry p).state = .joining ∨ (s.entry p).state = .opened → (∃ i : TxIx, look s.tx.pool i = .free) →
    ∃ (t : State) (i : TxIx),
      exec (.submit (BitVec.ofNat 8 p.val) (BitVec.ofNat 8 c.val) hostTag length payload) s = .next t ∧
      look s.tx.pool i = .free ∧
      t.tx =
        { s.tx with
          pool := put s.tx.pool i (.held
            { hostTag := hostTag, destination := p, cls := c, length := length.toNat,
              payload := payload.take length.toNat, transmitCount := 0, order := s.tx.nextOrder, state := .queued })
          queues := put2 s.tx.queues p c (look2 s.tx.queues p c ++ [i])
          nextOrder := s.tx.nextOrder + 1 } ∧
      PortBecomes { s.port with
        txn := some { x with command := .decided .ok, reply := [] }, staging := payload.take 500 } t ∧
      OnlyWrites [.tx, .port] s t

/-- R71, R75: where a SUBMIT is refused, the first check that fails, in the table's order, gives the result, and nothing
changes but the staging buffer (R150). A CANCEL whose destination is above 15 is BAD_DEST; with no QUEUED match a
SENDING or IN_FLIGHT one is IN_FLIGHT, and none is NOT_FOUND; nothing changes. -/
def Obligations.SubmitAndCancelRefusals : Prop :=
  ∀ (s : State) (x : Transaction) (hostTag : BitVec 16) (dest : Byte), s.openTxn = some x →
    (∀ (cls : Byte) (length : BitVec 16) (payload : List Byte) (r : Result),
      s.submitRefusal dest cls length payload.length = some r →
      ∃ t : State, exec (.submit dest cls hostTag length payload) s = .next t ∧
        PortBecomes { s.port with
          txn := some { x with command := .decided r, reply := [] }, staging := payload.take 500 } t ∧
        OnlyWrites [.port] s t) ∧
    (15 < dest.toNat → ∃ t : State, exec (.cancel hostTag dest) s = .next t ∧
      Ends x .badDest s t ∧ OnlyWrites [.port] s t) ∧
    ∀ p : Station, dest.toNat = p.val →
      (∀ (i : TxIx) (r : TxRecord), look s.tx.pool i = .held r → r.hostTag = hostTag → r.destination = p →
        r.state ≠ .queued) →
      ((∃ (i : TxIx) (r : TxRecord), look s.tx.pool i = .held r ∧ r.hostTag = hostTag ∧ r.destination = p ∧
          (r.state = .sending ∨ ∃ q : Count, r.state = .inFlight q)) →
        ∃ t : State, exec (.cancel hostTag dest) s = .next t ∧ Ends x .inFlight s t ∧ OnlyWrites [.port] s t) ∧
      ((∀ (i : TxIx) (r : TxRecord), look s.tx.pool i = .held r → r.hostTag = hostTag → r.destination = p →
          ∃ (st : CompletionStatus) (rs : CloseReason), r.state = .done st rs) →
        ∃ t : State, exec (.cancel hostTag dest) s = .next t ∧ Ends x .notFound s t ∧ OnlyWrites [.port] s t)

/-- R75, step 2: a CANCEL completes CANCELLED, with reason NONE and transmit count 0, the QUEUED slot of its host tag
and destination that is earliest in submission order, in every station state; the result is OK. What a DONE slot no
longer needs is dropped (the model's choice, assumption log 16). -/
def Obligations.CancelTakesOldestQueued : Prop :=
  ∀ (s : State) (x : Transaction) (p : Station) (i : TxIx) (r : TxRecord), s.openTxn = some x →
    look s.tx.pool i = .held r → r.destination = p → r.state = .queued →
    (∀ (j : TxIx) (u : TxRecord), look s.tx.pool j = .held u → u.hostTag = r.hostTag → u.destination = p →
      u.state = .queued → j = i ∨ r.order < u.order) →
    ∃ t : State, exec (.cancel r.hostTag (BitVec.ofNat 8 p.val)) s = .next t ∧
      t.tx =
        { s.tx with
          pool := put s.tx.pool i (.held
            { r with payload := [], transmitCount := 0, order := 0, state := .done .cancelled .none })
          queues := put2 s.tx.queues p r.cls ((look2 s.tx.queues p r.cls).erase i)
          completions := s.tx.completions ++ [i] } ∧
      Ends x .ok s t ∧ OnlyWrites [.tx, .port] s t

/-- R80, R79: a COMPLETIONS of 1 to 32 fixes the lesser of its count and the queue's length and replies with that number
and the records, oldest first; with none its result is EMPTY; a count of 0 or above 32 is refused BAD_COUNT. -/
def Obligations.CompletionsShowsOldestRecords : Prop :=
  ∀ (s : State) (x : Transaction) (n : Byte), s.openTxn = some x →
    (1 ≤ n.toNat → n.toNat ≤ 32 → ∃ t : State, exec (.completions n) s = .next t ∧
      Answers x (if s.tx.completions = [] then .decided .empty else .completions (min n.toNat s.tx.completions.length))
        (BitVec.ofNat 8 (min n.toNat s.tx.completions.length) ::
          (s.tx.completions.take n.toNat).flatMap s.reportOf) s t ∧
      OnlyWrites [.port] s t) ∧
    (n.toNat = 0 ∨ 32 < n.toNat → ∃ t : State, exec (.completions n) s = .next t ∧
      Ends x .badCount s t ∧ OnlyWrites [.port] s t)

/-- R80, R81: at a fixed record's last byte its slot leaves the head of the completion queue and becomes FREE. With no
record left to read nothing changes (the model's choice, assumption log 12). -/
def Obligations.RecordReadFreesHead : Prop :=
  ∀ s : State,
    (∀ (x : Transaction) (n : Nat) (i : TxIx) (rest : List TxIx), s.port.txn = some x →
      x.command = .completions (n + 1) → s.tx.completions = i :: rest →
      ∃ t : State, exec .completionRecordRead s = .next t ∧
        t.tx = { s.tx with pool := put s.tx.pool i .free, completions := rest } ∧
        Answers x (.completions n) x.reply s t ∧ OnlyWrites [.tx, .port] s t) ∧
    ((∀ n : Nat, s.command ≠ some (.completions (n + 1))) →
      ∃ t : State, exec .completionRecordRead s = .next t ∧ OnlyWrites [] s t)

/-! ## Receive Queues and the Host Read Path -/

/-- R57 to R59, R63: a TAKE or PEEK of a class, or of ANY for the lowest-numbered nonempty queue, shows that queue's
head: its header with the number of messages behind it, and for a TAKE the payload. Nothing but the transaction
changes. -/
def Obligations.TakeAndPeekShowHead : Prop :=
  ∀ (s : State) (x : Transaction) (classByte : Byte) (c : Cls) (i : RxIx) (rest : List RxIx) (m : MsgRecord),
    s.openTxn = some x → look s.rx.queues c = i :: rest → look s.rx.pool i = .occupied m →
    classByte.toNat = c.val ∨ classByte = 0xFF ∧ (∀ d : Cls, d < c → look s.rx.queues d = []) →
    (∃ t : State, exec (.take classByte) s = .next t ∧
      Answers x (.take c i false) (headerOf m rest.length ++ m.payload) s t ∧ OnlyWrites [.port] s t) ∧
    ∃ t : State, exec (.peek classByte) s = .next t ∧
      Answers x (.decided .ok) (headerOf m rest.length) s t ∧ OnlyWrites [.port] s t

/-- R57, R58, R62, R63: a TAKE or PEEK whose queue is empty, or of ANY with all four empty, shows no message: source 0,
the class byte as sent, length 0, remaining 0; the result is EMPTY, and no queue, slot or count changes. -/
def Obligations.TakeAndPeekOfNothing : Prop :=
  ∀ (s : State) (x : Transaction) (classByte : Byte), s.openTxn = some x →
    (∃ c : Cls, classByte.toNat = c.val ∧ look s.rx.queues c = []) ∨
      classByte = 0xFF ∧ (∀ c : Cls, look s.rx.queues c = []) →
    (∃ t : State, exec (.take classByte) s = .next t ∧
      Answers x (.decided .empty) [0, classByte, 0, 0, 0] s t ∧ OnlyWrites [.port] s t) ∧
    ∃ t : State, exec (.peek classByte) s = .next t ∧
      Answers x (.decided .empty) [0, classByte, 0, 0, 0] s t ∧ OnlyWrites [.port] s t

/-- R166: a TAKE or PEEK whose class byte is 0x04 to 0xFE is refused BAD_CLASS at the end of that byte: no head is
fixed, every MISO byte from byte 2 on is 0, nothing else changes, and the transaction ends BAD_CLASS whenever CS
rises. -/
def Obligations.ClassByteOutOfRange : Prop :=
  ∀ (s : State) (x : Transaction) (classByte : Byte) (i : Instr), PortLaw s → s.openTxn = some x →
    4 ≤ classByte.toNat → classByte.toNat ≤ 0xFE → i = .take classByte ∨ i = .peek classByte →
    ∃ t u : State, exec i s = .next t ∧ Ends x .badClass s t ∧ OnlyWrites [.port] s t ∧
      (∀ k : Nat, t.miso (k + 2) = some 0) ∧
      exec .transactionEnd t = .next u ∧ u.port.prevResult = .badClass ∧ OnlyWrites [.port] t u

/-- R60, R45: at a TAKE's completion the message leaves the head of its queue and its slot is released by the state of
its source now: RESERVED with L advanced and a TALLY claim where the source is OPEN, FREE without a claim where it is
not. -/
def Obligations.TakeCompletionReleases : Prop :=
  ∀ (s : State) (x : Transaction) (c : Cls) (i : RxIx) (rest : List RxIx) (m : MsgRecord),
    s.port.txn = some x → x.command = .take c i false → look s.rx.queues c = i :: rest →
    look s.rx.pool i = .occupied m →
    ∃ t : State, exec .takeComplete s = .next t ∧
      t.rx.queues = put s.rx.queues c rest ∧
      (if (s.entry m.source).state = .opened then
        t.rx.pool = put s.rx.pool i (.reserved m.source m.cls) ∧
        t.rx.records = put2 s.rx.records m.source m.cls
          ⟨(look2 s.rx.records m.source m.cls).accepted, (look2 s.rx.records m.source m.cls).limit + 1,
            (look2 s.rx.records m.source m.cls).reserved + 1, (look2 s.rx.records m.source m.cls).occupied - 1⟩ ∧
        t.arb = { s.arb with tallies := put s.arb.tallies m.source true }
      else
        t.rx.pool = put s.rx.pool i .free ∧
        t.rx.records = put2 s.rx.records m.source m.cls
          { look2 s.rx.records m.source m.cls with occupied := (look2 s.rx.records m.source m.cls).occupied - 1 } ∧
        t.arb = s.arb) ∧
      Answers x (.take c i true) x.reply s t ∧ OnlyWrites [.rx, .arb, .port] s t

/-! ## The Host Port -/

/-- R144: a STATUS replies with the ten bytes of the status record as they stand at the end of its command byte, and
keeps the flags and the count shown for its read-clear. Nothing but the transaction changes. -/
def Obligations.StatusSnapshot : Prop :=
  ∀ (s : State) (x : Transaction), s.openTxn = some x →
    ∃ t : State, exec .status s = .next t ∧
      Answers x (.status s.control.faults s.line.errors ⟨false, false, false⟩ false)
        [s.control.station.code,
          BitVec.ofNat 8 (s.control.faults.duplicateStation.toNat + 2 * s.control.faults.lineFault.toNat +
            4 * s.control.faults.creditOverrun.toNat),
          BitVec.ofNat 8 s.line.errors, BitVec.ofNat 8 (countIn (fun slot => slot = TxSlot.free) s.tx.pool),
          BitVec.ofNat 8 (countIn (fun slot => slot = RxSlot.free) s.rx.pool),
          BitVec.ofNat 8 (look s.rx.queues 0).length, BitVec.ofNat 8 (look s.rx.queues 1).length,
          BitVec.ofNat 8 (look s.rx.queues 2).length, BitVec.ofNat 8 (look s.rx.queues 3).length,
          BitVec.ofNat 8 s.tx.completions.length] s t ∧
      OnlyWrites [.port] s t

/-- R145, R133, R147, R28: the read-clears. At the end of a full STATUS read each flag shown set and not set again
since is cleared, a flag shown clear is left as it stands, and the line error count is lowered by the value shown. At
the end of a full PEERS read the changed flag of the peer read is cleared, unless it has been set since the snapshot. -/
def Obligations.FullReadsClear : Prop :=
  ∀ (s : State) (x : Transaction), s.port.txn = some x →
    (∀ (shown since : FaultFlags) (errors : Nat), x.command = .status shown errors since false →
      ∃ t : State, exec .statusReadClear s = .next t ∧
        (∀ f : FaultName, t.control.faults.get f =
          if shown.get f = true ∧ since.get f = false then false else s.control.faults.get f) ∧
        t.control = { s.control with faults := t.control.faults } ∧
        t.line = { s.line with errors := s.line.errors - errors } ∧
        Answers x (.status shown errors since true) x.reply s t ∧ OnlyWrites [.control, .line, .port] s t) ∧
    (∀ (p : Station) (since : Bool), x.command = .peers p since false →
      ∃ t : State, exec .peersReadClear s = .next t ∧
        t.entry p = { s.entry p with changed := since && (s.entry p).changed } ∧ OthersKeep p s t ∧
        Answers x (.peers p since true) x.reply s t ∧ OnlyWrites [.session, .port] s t)

/-- R146: a PEERS of position 0 to 15 replies with the nine peer-wide bytes and, for each class in order, the nine
bytes of its receive record and send counters, as they stand at the end of the peer byte. Nothing but the transaction
changes. -/
def Obligations.PeersSnapshot : Prop :=
  ∀ (s : State) (x : Transaction) (p : Station), s.openTxn = some x →
    ∃ t : State, exec (.peers (BitVec.ofNat 8 p.val)) s = .next t ∧
      Answers x (.peers p false false)
        ([(s.entry p).state.code] ++ twoBytes (s.entry p).ownTag.toNat ++ twoBytes (s.entry p).peerTag.toNat ++
          [BitVec.ofNat 8 (s.entry p).changed.toNat, (s.entry p).lastClose.code,
            BitVec.ofNat 8 (s.entry p).joinAttempts, BitVec.ofNat 8 (look s.tx.retries p)] ++
          classes.flatMap fun c =>
            [(look2 s.rx.records p c).accepted, (look2 s.rx.records p c).limit,
              BitVec.ofNat 8 (look2 s.rx.records p c).reserved, BitVec.ofNat 8 (look2 s.rx.records p c).occupied,
              (look2 s.tx.counters p c).next, (look2 s.tx.counters p c).acked, (look2 s.tx.counters p c).limit,
              BitVec.ofNat 8 (look2 s.tx.queues p c).length, BitVec.ofNat 8 (look2 s.tx.flights p c).length]) s t ∧
      OnlyWrites [.port] s t

/-- R165: a PEERS whose peer byte carries 16 to 255 is refused BAD_DEST: no snapshot, no changed flag cleared, every
MISO byte from byte 2 on 0, and BAD_DEST whenever CS rises after the byte; a transaction that ends before the byte is
SHORT. -/
def Obligations.PeerByteOutOfRange : Prop :=
  ∀ (s : State) (x : Transaction) (peerByte : Byte), PortLaw s → s.openTxn = some x → 16 ≤ peerByte.toNat →
    (∃ t u v : State, exec (.peers peerByte) s = .next t ∧ Ends x .badDest s t ∧ OnlyWrites [.port] s t ∧
      (∀ k : Nat, t.miso (k + 2) = some 0) ∧
      exec .peersReadClear t = .next v ∧ OnlyWrites [] t v ∧
      exec .transactionEnd t = .next u ∧ u.port.prevResult = .badDest ∧ OnlyWrites [.port] t u) ∧
    ∃ u : State, exec .transactionEnd s = .next u ∧ u.port.prevResult = .short ∧ OnlyWrites [.port] s u

/-- R148: a MASK replaces the attention mask whole, by any value and in every station state, with result OK; a
transaction that ends before the mask byte is SHORT and leaves the mask. -/
def Obligations.MaskIsReplaced : Prop :=
  ∀ (s : State) (x : Transaction) (value : Byte), s.openTxn = some x →
    (∃ t : State, exec (.mask value) s = .next t ∧ t.control = { s.control with mask := value } ∧
      Ends x .ok s t ∧ OnlyWrites [.control, .port] s t) ∧
    ∃ u : State, exec .transactionEnd s = .next u ∧ u.port.prevResult = .short ∧ u.control.mask = s.control.mask

/-- R141: a command byte that names none of the twelve commands takes nothing; MISO carries 0 from byte 2 on and the
transaction ends UNKNOWN. -/
def Obligations.UnknownCommandTakesNothing : Prop :=
  ∀ (s : State) (x : Transaction) (code : Byte), PortLaw s → s.openTxn = some x →
    code ∉ ([0x10, 0x11, 0x12, 0x1F, 0x20, 0x21, 0x22, 0x30, 0x31, 0x40, 0x41, 0x42] : List Byte) →
    ∃ t u : State, exec (.unknownCommand code) s = .next t ∧ Answers x .unknown [] s t ∧ OnlyWrites [.port] s t ∧
      (∀ k : Nat, t.miso (k + 2) = some 0) ∧
      exec .transactionEnd t = .next u ∧ u.port.prevResult = .unknown ∧ OnlyWrites [.port] t u

/-- R137 to R139, R151, R161: CS falling opens a transaction whose MISO bytes are the summary sampled now, the previous
result, and zeros until a command replies. While RST is low no transaction is taken and MISO stays undriven; CS already
low has no falling edge (assumption log 1). -/
def Obligations.TransactionBeginSamplesSummary : Prop :=
  ∀ s : State,
    (s.port.cs = .high → s.port.rst = .high → ∃ (t : State) (summary : Byte), exec .transactionBegin s = .next t ∧
      (∀ k : Fin 8, s.conditions[k.val]? = some (summary.getMsbD k.val)) ∧
      PortBecomes { s.port with cs := .low, txn := some ⟨summary, .none, []⟩ } t ∧
      t.miso 0 = some summary ∧ t.miso 1 = some s.port.prevResult.code ∧ (∀ k : Nat, t.miso (k + 2) = some 0) ∧
      OnlyWrites [.port] s t) ∧
    (s.port.cs = .high → s.port.rst = .low → ∃ t : State, exec .transactionBegin s = .next t ∧
      PortBecomes { s.port with cs := .low } t ∧ (∀ k : Nat, t.miso k = none) ∧ OnlyWrites [.port] s t) ∧
    (s.port.cs = .low → ∃ t : State, exec .transactionBegin s = .next t ∧ OnlyWrites [] s t)

/-- R140, R142, with R61, R67, R80, R144, R147: CS rising ends the transaction and writes its result: SHORT where no
command was taken or its reply was not read whole, UNKNOWN for an unknown command, else the command's own. With no
transaction open nothing is written (R151). MISO is undriven from then on (R137). -/
def Obligations.TransactionEndWritesResult : Prop :=
  ∀ s : State,
    (s.port.txn = none → ∃ t : State, exec .transactionEnd s = .next t ∧
      PortBecomes { s.port with cs := .high } t ∧ (∀ k : Nat, t.miso k = none) ∧ OnlyWrites [.port] s t) ∧
    ∀ x : Transaction, s.port.txn = some x →
      ∃ (t : State) (r : Result), exec .transactionEnd s = .next t ∧
        PortBecomes { s.port with cs := .high, txn := none, prevResult := r } t ∧ (∀ k : Nat, t.miso k = none) ∧
        OnlyWrites [.port] s t ∧
        (x.command = .none → r = .short) ∧ (x.command = .unknown → r = .unknown) ∧
        (∀ r' : Result, x.command = .decided r' → r = r') ∧
        (∀ (c : Cls) (i : RxIx) (complete : Bool), x.command = .take c i complete →
          r = if complete then .ok else .short) ∧
        (∀ left : Nat, x.command = .completions left → r = if left = 0 then .ok else .short) ∧
        (∀ (shown : FaultFlags) (n : Nat) (since : FaultFlags) (full : Bool), x.command = .status shown n since full →
          r = if full then .ok else .short) ∧
        ∀ (p : Station) (since full : Bool), x.command = .peers p since full → r = if full then .ok else .short

/-- The model's choice (assumption log 1): a host command where no transaction is open, or one has already taken its
command, has no effect, since SCK edges are ignored while CS is high (R137) and a transaction carries one command
(R138). -/
def Obligations.HostCommandNeedsTransaction : Prop :=
  ∀ (c : Instr) (s : State), isHostCommand c = true → s.openTxn = none →
    ∃ t : State, exec c s = .next t ∧ OnlyWrites [] s t

/-! ## The Transmit Arbiter -/

/-- R112, R113, R116: a selection serves the ANNOUNCE flag, then the SEVER, JOIN and TALLY sets, each from its pointer.
The frame is built from the state as it stands, its claim leaves its set, the pointer moves to the peer served, and the
line contends. While LEAVING only SEVER is offered. That IDLE_BEGUN and WINDOW_OUT build at once is the model's reading
(assumption log 5). -/
def Obligations.ControlFramesInOrder : Prop :=
  ∀ (i : Instr) (s u : State), SelectsFrom i s u →
    (s.control.station = .active → s.arb.announce = true → ∃ t : State, exec i s = .next t ∧
      Contends .announce (.announce s.record.ownStation s.record.incarnation) u t ∧
      t.arb = { u.arb with announce := false, inHand := t.arb.inHand } ∧
      t.tx = { s.tx with tie := none } ∧ OnlyWrites [.arb, .tx, .line] s t) ∧
    (s.control.station = .leaving ∨ s.arb.announce = false → ∀ (p : Station) (c : SeverClaim),
      ServedNext s.arb.severPtr (fun q => (look s.arb.severs q).isSome) p → look s.arb.severs p = some c →
      ∃ t : State, exec i s = .next t ∧
        Contends (.sever p c) (.sever s.record.ownStation p c.srcTag c.dstTag c.reason.code) u t ∧
        t.arb = { u.arb with severs := put u.arb.severs p none, severPtr := p, inHand := t.arb.inHand } ∧
        t.tx = { s.tx with tie := none } ∧ OnlyWrites [.arb, .tx, .line] s t) ∧
    (s.control.station = .active → s.arb.announce = false → (∀ q : Station, look s.arb.severs q = none) →
      ∀ p : Station, ServedNext s.arb.joinPtr (look s.arb.joins) p →
      ∃ t : State, exec i s = .next t ∧
        Contends (.join p) (.join s.record.ownStation p (s.entry p).ownTag (s.entry p).peerTag) u t ∧
        t.arb = { u.arb with joins := put u.arb.joins p false, joinPtr := p, inHand := t.arb.inHand } ∧
        t.tx = { s.tx with tie := none } ∧ OnlyWrites [.arb, .tx, .line] s t) ∧
    (s.control.station = .active → s.arb.announce = false → (∀ q : Station, look s.arb.severs q = none) →
      (∀ q : Station, look s.arb.joins q = false) →
      ∀ p : Station, ServedNext s.arb.tallyPtr (look s.arb.tallies) p →
      ∃ (t : State) (pairs : PerClass TallyPair), exec i s = .next t ∧
        (∀ c : Cls, look pairs c = ⟨(look2 s.rx.records p c).accepted, (look2 s.rx.records p c).limit⟩) ∧
        Contends (.tally p) (.tally s.record.ownStation p (s.entry p).ownTag (s.entry p).peerTag pairs) u t ∧
        t.arb = { u.arb with tallies := put u.arb.tallies p false, tallyPtr := p, inHand := t.arb.inHand } ∧
        t.tx = { s.tx with tie := none } ∧ OnlyWrites [.arb, .tx, .line] s t)

/-- R114, R90, R74, R116: where nothing else is offered and the yield flag is clear, a selection serves the first class
with anything sendable, and in it the first peer from the class's pointer: a due resend of the slot at the resend point,
which does not move, or the head of the send queue, which becomes the SENDING slot and carries S. Which commands select
is the model's reading (assumption log 5). -/
def Obligations.DataFramesInOrder : Prop :=
  ∀ (i : Instr) (s u : State) (p : Station) (c : Cls), SelectsFrom i s u → DataServed u p c →
    (∀ j : TxIx, HeadEligible s p c j → ∀ r : TxRecord, look s.tx.pool j = .held r →
      ∃ t : State, exec i s = .next t ∧
        Contends (.message p) (.message s.record.ownStation p (s.entry p).ownTag (s.entry p).peerTag c
          (look2 s.tx.counters p c).next r.payload) u t ∧
        t.arb = { u.arb with dataPtrs := put u.arb.dataPtrs c p, inHand := t.arb.inHand } ∧
        t.tx =
          { s.tx with
            pool := put s.tx.pool j (.held { r with state := .sending })
            queues := put2 s.tx.queues p c (look2 s.tx.queues p c).tail
            sending := some j
            tie := some ⟨j, p, c, (look2 s.tx.counters p c).next, true⟩ } ∧
        OnlyWrites [.arb, .tx, .line] s t) ∧
    (∀ q : Count, (∃ j : TxIx, ResendDue s p c j q) →
      ∃ (t : State) (j : TxIx) (r : TxRecord), exec i s = .next t ∧
        ResendDue s p c j q ∧ look s.tx.pool j = .held r ∧
        Contends (.message p) (.message s.record.ownStation p (s.entry p).ownTag (s.entry p).peerTag c q r.payload) u t ∧
        t.arb = { u.arb with dataPtrs := put u.arb.dataPtrs c p, inHand := t.arb.inHand } ∧
        t.tx = { s.tx with tie := some ⟨j, p, c, q, false⟩ } ∧ OnlyWrites [.arb, .tx, .line] s t)

/-- R112, R115, R125, R124: where no source offers a frame nothing is built: FRAME_BUILD changes nothing, IDLE_BEGUN
makes the line IDLE, WINDOW_OUT clears the yield flag. Data is held back by the yield flag, but not from WINDOW_OUT,
which clears it first. Which commands select is the model's reading (assumption log 5). While a frame is assembled the
line does not become IDLE; that an IDLE_BEGUN then has no effect is the model's reading (assumption log 8). -/
def Obligations.SelectionOfNothing : Prop :=
  (∀ (i : Instr) (s u : State), SelectsFrom i s u →
    (s.control.station = .leaving ∨
      s.arb.announce = false ∧ (∀ p : Station, look s.arb.joins p = false ∧ look s.arb.tallies p = false) ∧
      (u.arb.yield = true ∨ ∀ (p : Station) (c : Cls), s.hasSendable p c = false)) →
    (∀ p : Station, look s.arb.severs p = none) →
    ∃ t : State, exec i s = .next t ∧ t.arb = u.arb ∧ t.line = { u.line with state := .idle } ∧
      OnlyWrites [.arb, .line] s t) ∧
  ∀ s : State, s.line.state = .receiving .frame → ∃ t : State, exec .idleBegun s = .next t ∧ OnlyWrites [] s t

/-! ## The Backplane Line: this station's frames -/

/-- R117, R126, R91, R92, R95, R101: the win of a MESSAGE makes the line TRANSMITTING and clears the yield flag. A tied
first transmission becomes IN_FLIGHT at the tail with seq S and transmit count 1, and S advances; a tied resend counts
one more transmission, up to 16, and moves a resend point that stands at it; either starts a stopped ack timer. A
detached frame changes no slot. That the yield flag clears at the win, not at the own start bit before it, is the
model's reading (assumption log 9). -/
def Obligations.WinOfAMessage : Prop :=
  ∀ (s : State) (p : Station) (withdrawn : Bool), s.line.state = .contending →
    s.arb.inHand = some ⟨.message p, withdrawn⟩ →
    ∃ t : State, exec .frameWon s = .next t ∧
      t.line = { s.line with state := .transmitting } ∧ t.arb = { s.arb with yield := false } ∧
      OnlyWrites [.tx, .arb, .line] s t ∧
      (s.tx.tie = none → t.tx = s.tx) ∧
      ∀ (k : Tie) (r : TxRecord), s.tx.tie = some k → look s.tx.pool k.slot = .held r →
        (k.first = true → t.tx =
          { s.tx with
            pool := put s.tx.pool k.slot
              (.held { r with state := .inFlight (look2 s.tx.counters k.peer k.cls).next, transmitCount := 1 })
            flights := put2 s.tx.flights k.peer k.cls (look2 s.tx.flights k.peer k.cls ++ [k.slot])
            counters := put2 s.tx.counters k.peer k.cls
              { look2 s.tx.counters k.peer k.cls with next := (look2 s.tx.counters k.peer k.cls).next + 1 }
            ackTimers := put s.tx.ackTimers k.peer
              (if look s.tx.ackTimers k.peer = .stopped then .running (s.record.ackTimeout + 1)
                else look s.tx.ackTimers k.peer)
            sending := none }) ∧
        (k.first = false → t.tx =
          { s.tx with
            pool := put s.tx.pool k.slot
              (.held { r with transmitCount := if r.transmitCount < 16 then r.transmitCount + 1 else 16 })
            counters := put2 s.tx.counters k.peer k.cls
              { look2 s.tx.counters k.peer k.cls with
                resend :=
                  if (look2 s.tx.counters k.peer k.cls).resend = some k.seq then
                    if k.seq + 1 = (look2 s.tx.counters k.peer k.cls).next then none else some (k.seq + 1)
                  else (look2 s.tx.counters k.peer k.cls).resend }
            ackTimers := put s.tx.ackTimers k.peer
              (if look s.tx.ackTimers k.peer = .stopped then .running (s.record.ackTimeout + 1)
                else look s.tx.ackTimers k.peer) })

/-- R117, R27: the win of a control frame makes the line TRANSMITTING and clears the yield flag; a TALLY not withdrawn,
to a peer that is OPEN, starts that peer's refresh timer, and no other control frame touches any other block. That the
yield flag clears here is the model's reading (assumption log 9). -/
def Obligations.WinOfAControlFrame : Prop :=
  ∀ (s : State) (k : HandKind) (withdrawn : Bool), s.line.state = .contending →
    s.arb.inHand = some ⟨k, withdrawn⟩ → (∀ p : Station, k ≠ .message p) →
    ∃ t : State, exec .frameWon s = .next t ∧
      t.line = { s.line with state := .transmitting } ∧ t.arb = { s.arb with yield := false } ∧
      (∀ p : Station, t.entry p =
        if k = .tally p ∧ withdrawn = false ∧ (s.entry p).state = .opened then
          { s.entry p with refreshTimer := .running (s.record.refreshInterval + 1) }
        else s.entry p) ∧
      OnlyWrites [.session, .arb, .line] s t

/-- R126, R93, R118, R115: a frame lost to another station leaves the buffer empty and the station assembling the
winning frame. A claim not withdrawn is restored, a newer one standing; a tied first transmission returns to the head of
its send queue with transmit count 0; a tied resend and a detached frame change no slot. That the yield flag clears here
is the model's reading (assumption log 9). -/
def Obligations.LossRestoresClaimAndSlot : Prop :=
  ∀ (s : State) (cause : LossCause) (h : InHand), s.line.state = .contending → cause ≠ .driveFault →
    s.arb.inHand = some h →
    ∃ t : State, exec (.frameLost cause) s = .next t ∧
      t.line = { s.line with outbound := none, state := .receiving .frame } ∧
      ClaimRestored h (s.control.station = .active) { s.arb with yield := false } t.arb ∧
      (s.tx.tie = none → t.tx = s.tx) ∧
      (∀ (d : Tie) (r : TxRecord), s.tx.tie = some d → look s.tx.pool d.slot = .held r →
        (d.first = true → t.tx =
          { s.tx with
            pool := put s.tx.pool d.slot (.held { r with state := .queued, transmitCount := 0 })
            queues := put2 s.tx.queues d.peer d.cls (d.slot :: look2 s.tx.queues d.peer d.cls)
            sending := none, tie := none }) ∧
        (d.first = false → t.tx = { s.tx with tie := none })) ∧
      OnlyWrites [.tx, .arb, .line] s t

/-- R128, R117, R115: at completion the buffer is empty, the record ends, the tie ends, the consecutive-abort count is 0
and the gap is read; a MESSAGE sets the yield flag, any other kind leaves it. -/
def Obligations.CompletedFrameFreesTheLine : Prop :=
  ∀ (s : State) (h : InHand), s.line.state = .transmitting → s.arb.inHand = some h →
    ∃ t : State, exec .frameCompleted s = .next t ∧
      t.line = { s.line with state := .receiving .gap, outbound := none, aborts := 0 } ∧
      ((∃ p : Station, h.kind = .message p) → t.arb = { s.arb with inHand := none, yield := true }) ∧
      ((∀ p : Station, h.kind ≠ .message p) → t.arb = { s.arb with inHand := none }) ∧
      t.tx = { s.tx with tie := none } ∧ OnlyWrites [.tx, .arb, .line] s t

/-- R127, R94, R118, R129: an abort short of the eighth drives the abort marker, empties the buffer, raises the
consecutive-abort count and reads the gap. A tied MESSAGE of seq s sets the resend point to s where it is absent or lies
later; a claim not withdrawn is restored. -/
def Obligations.AbortMarksResend : Prop :=
  ∀ (s : State) (h : InHand), s.line.state = .transmitting → s.line.aborts < 7 → s.arb.inHand = some h →
    ∃ t : State, exec .frameAborted s = .next t ∧
      t.line =
        { s.line with outbound := none, state := .receiving .gap, aborts := s.line.aborts + 1, marker := true } ∧
      t.ltxBits = [false, false, false, false, false, false, false, false] ∧
      ClaimRestored h (s.control.station = .active) s.arb t.arb ∧
      (s.tx.tie = none → t.tx = s.tx) ∧
      (∀ d : Tie, s.tx.tie = some d → t.tx =
        { s.tx with
          tie := none
          counters := put2 s.tx.counters d.peer d.cls
            { look2 s.tx.counters d.peer d.cls with
              resend :=
                match (look2 s.tx.counters d.peer d.cls).resend with
                | none => some d.seq
                | some q =>
                  if dist (look2 s.tx.counters d.peer d.cls).acked d.seq <
                    dist (look2 s.tx.counters d.peer d.cls).acked q then some d.seq else some q } }) ∧
      OnlyWrites [.tx, .arb, .line] s t

/-- R126, R127, R129, R158: a drive fault ends the frame lost like another loss, but drives the abort marker, reads the
gap and raises the consecutive-abort count; the eighth failure in a row, drive fault or abort, mutes the station with
LINE_FAULT, its marker driven. That the failure's notice goes first is the model's choice between two like orders
(assumption log 15), that the marker is not cut short by the silence its reading (assumption log 20), and what a DONE
slot no longer needs is dropped (assumption log 16). -/
def Obligations.EighthFailureMutes : Prop :=
  ∀ s : State, s.control.station = .active ∨ s.control.station = .leaving →
    (s.line.state = .contending → s.line.aborts < 7 → ∃ t u : State,
      exec (.frameLost .driveFault) s = .next t ∧ exec (.frameLost .arbitration) s = .next u ∧
      t = { u with line := { u.line with state := .receiving .gap, aborts := s.line.aborts + 1, marker := true } } ∧
      t.ltxBits = [false, false, false, false, false, false, false, false]) ∧
    ∀ i : Instr,
      i = .frameLost .driveFault ∧ s.line.state = .contending ∨ i = .frameAborted ∧ s.line.state = .transmitting →
      s.line.aborts = 7 → ∃ t u : State, exec i s = .next t ∧
        exec i { s with line := { s.line with aborts := 0 } } = .next u ∧
        Mutes .lineFault u t ∧ t.line.aborts = 8 ∧ t.ltxBits = [false, false, false, false, false, false, false, false]

/-! ## The Backplane Line: frames of other stations -/

/-- R125, R115, R132, R133: a start bit read on an IDLE line with an empty buffer makes the line RECEIVING and clears
the yield flag; one read in the gap, behind an abort marker where one was driven, begins a frame and is no end of an
idle period. A discarded frame raises the line error count by one, up to 255; the rest of it is passed over, and it
reaches no other block. What the gap's start bit leaves is the model's reading (assumption log 7). -/
def Obligations.StartBitsAndDiscards : Prop :=
  ∀ s : State,
    (s.line.state = .idle → ∃ t : State, exec .startBitReceived s = .next t ∧
      t.line = { s.line with state := .receiving .frame } ∧ t.arb = { s.arb with yield := false } ∧
      OnlyWrites [.arb, .line] s t) ∧
    (s.line.state = .receiving .gap → ∃ t : State, exec .startBitReceived s = .next t ∧
      t.line = { s.line with state := .receiving .frame, marker := false } ∧ OnlyWrites [.line] s t) ∧
    (s.line.state = .receiving .frame → ∀ cls : DiscardClass, ∃ t : State, exec (.frameDiscard cls) s = .next t ∧
      t.line = { s.line with
        state := .receiving .passing, errors := if s.line.errors < 255 then s.line.errors + 1 else 255 } ∧
      OnlyWrites [.line] s t)

/-- R124 to R126, R130, R132: a frame of another station ends as it does after its start bit: on an IDLE line the bit
ends the idle period, while CONTENDING it is another station's earlier start and the frame in hand is lost to it, and
where the line assembles nothing the frame has no effect. ATTN stands where its conditions put it, as every command
leaves it (assumption log 7). -/
def Obligations.ReceptionFromAnyPhase : Prop :=
  ∀ (c : Instr) (s u : State), isReception c = true → s.port.attn = s.attnLevel →
    exec .startBitReceived s = .next u →
    exec c s = exec c u ∧
    (s.line.state = .contending → exec .startBitReceived s = exec (.frameLost .earlierStart) s) ∧
    (s.line.state = .silent ∨ s.line.state = .transmitting ∨ s.line.state = .receiving .unsynchronized ∨
        s.line.state = .receiving .passing →
      exec c s = .next s)

/-! ## Peer Sessions: frames -/

/-- R15, R9, R4: an ANNOUNCE puts its sender's entry into fresh JOINING with peer tag 0; from OPEN a RESTART close comes
first, with every block's share. What a DONE slot no longer needs is dropped (the model's choice, assumption log 16). -/
def Obligations.AnnounceByState : Prop :=
  ∀ (s : State) (p : Station) (incarnation : Byte), Hears p s →
    ((s.entry p).state ≠ .opened → ∃ t : State, exec (.announceReceived p incarnation) s = .next t ∧
      FreshlyJoins p 0 (s.entry p) s t ∧ t.arb = { s.arb with joins := put s.arb.joins p true } ∧
      FrameEnded s t ∧ OnlyWrites [.control, .session, .arb, .line] s t) ∧
    ((s.entry p).state = .opened → SlotLaw s → ∃ t : State, exec (.announceReceived p incarnation) s = .next t ∧
      Restarts p 0 s t ∧ FrameEnded s t ∧ OnlyWrites [.control, .session, .rx, .tx, .arb, .line, .port] s t)

/-- R16 to R18, R10, R35: a JOIN by the state of its sender's entry. Source tag 0 is ignored, and so is any JOIN in
LOST; in ABSENT a fresh JOINING under the JOIN's tag; in JOINING the peer tag is taken, and the entry opens where the
JOIN returns the own tag, else a JOIN claim answers; in OPEN the known tag draws a TALLY claim and a new one a RESTART.
What a DONE slot no longer needs is dropped (the model's choice, assumption log 16). -/
def Obligations.JoinByState : Prop :=
  ∀ (s : State) (p : Station) (srcTag yourTag : Tag), Hears p s →
    ((s.entry p).state = .lost ∨ srcTag = 0 → ∃ t : State, exec (.joinReceived p srcTag yourTag) s = .next t ∧
      t.entry p = s.heardEntry p ∧ OthersKeep p s t ∧ FrameEnded s t ∧ OnlyWrites [.session, .line] s t) ∧
    ((s.entry p).state = .absent → srcTag ≠ 0 → ∃ t : State, exec (.joinReceived p srcTag yourTag) s = .next t ∧
      FreshlyJoins p srcTag (s.entry p) s t ∧ t.arb = { s.arb with joins := put s.arb.joins p true } ∧
      FrameEnded s t ∧ OnlyWrites [.control, .session, .arb, .line] s t) ∧
    ((s.entry p).state = .joining → srcTag ≠ 0 → yourTag = (s.entry p).ownTag → (s.entry p).ownTag ≠ 0 →
      (classes.map (s.toReserve p)).sum ≤ countIn RxSlot.isFree s.rx.pool →
      ∃ t : State, exec (.joinReceived p srcTag yourTag) s = .next t ∧
        EntryOpens p srcTag s t ∧ ReservationMade p s t ∧ OpenClaims p s t ∧
        PortNotes (fun _ => false) (· = p) s t ∧
        FrameEnded s t ∧ OnlyWrites [.session, .rx, .arb, .line, .port] s t) ∧
    ((s.entry p).state = .joining → srcTag ≠ 0 → yourTag ≠ (s.entry p).ownTag ∨ (s.entry p).ownTag = 0 →
      ∃ t : State, exec (.joinReceived p srcTag yourTag) s = .next t ∧
        t.entry p = { s.entry p with peerTag := srcTag } ∧ OthersKeep p s t ∧
        t.arb = { s.arb with joins := put s.arb.joins p true } ∧
        FrameEnded s t ∧ OnlyWrites [.session, .arb, .line] s t) ∧
    ((s.entry p).state = .opened → srcTag ≠ 0 → srcTag = (s.entry p).peerTag →
      ∃ t : State, exec (.joinReceived p srcTag yourTag) s = .next t ∧
        t.entry p = s.heardEntry p ∧ OthersKeep p s t ∧
        t.arb = { s.arb with tallies := put s.arb.tallies p true } ∧
        FrameEnded s t ∧ OnlyWrites [.session, .arb, .line] s t) ∧
    ((s.entry p).state = .opened → srcTag ≠ 0 → srcTag ≠ (s.entry p).peerTag → SlotLaw s →
      ∃ t : State, exec (.joinReceived p srcTag yourTag) s = .next t ∧
        Restarts p srcTag s t ∧ FrameEnded s t ∧
        OnlyWrites [.control, .session, .rx, .tx, .arb, .line, .port] s t)

/-- R23, R11 to R13: a SEVER that matches closes a JOINING entry into ABSENT and an OPEN one into LOST, with reason
SEVERED and no SEVER claim, whatever reason it carries; any other SEVER gives the heard update alone. What a DONE slot
no longer needs is dropped (the model's choice, assumption log 16). -/
def Obligations.SeverByTags : Prop :=
  ∀ (s : State) (p : Station) (srcTag dstTag : Tag) (reason : Byte), Hears p s →
    ((s.entry p).state = .joining ∨ (s.entry p).state = .opened →
      (s.entry p).ownTag ≠ 0 → (s.entry p).peerTag ≠ 0 → srcTag = (s.entry p).peerTag → dstTag = (s.entry p).ownTag →
      ∃ t : State, exec (.severReceived p srcTag dstTag reason) s = .next t ∧
        Closes .severed (if (s.entry p).state = .opened then .lost else .absent) none p s t ∧
        FrameEnded s t ∧ OnlyWrites [.session, .rx, .tx, .arb, .line, .port] s t) ∧
    ((s.entry p).state = .absent ∨ (s.entry p).state = .lost ∨ (s.entry p).ownTag = 0 ∨ (s.entry p).peerTag = 0 ∨
        srcTag ≠ (s.entry p).peerTag ∨ dstTag ≠ (s.entry p).ownTag →
      ∃ t : State, exec (.severReceived p srcTag dstTag reason) s = .next t ∧
        t.entry p = s.heardEntry p ∧ OthersKeep p s t ∧ FrameEnded s t ∧ OnlyWrites [.session, .line] s t)

/-- R19 to R22, R7: a TALLY or MESSAGE that meets an ABSENT or LOST entry, or whose tags do not match, or that comes
while LEAVING, is discarded and answered by a SEVER claim with its tags swapped and reason STALE; a MESSAGE that
matches a JOINING entry is discarded without one. -/
def Obligations.StaleFramesAreAnswered : Prop :=
  ∀ (s : State) (p : Station) (srcTag dstTag : Tag) (i : Instr),
    (∃ pairs : PerClass TallyPair, i = .tallyReceived p srcTag dstTag pairs) ∨
      (∃ (c : Cls) (seq : Count) (payload : List Byte),
        i = .messageReceived p srcTag dstTag c seq payload ∧ i.wellFormed = true) →
    (Hears p s →
      (s.entry p).state = .absent ∨ (s.entry p).state = .lost ∨ (s.entry p).ownTag = 0 ∨ (s.entry p).peerTag = 0 ∨
        srcTag ≠ (s.entry p).peerTag ∨ dstTag ≠ (s.entry p).ownTag →
      ∃ t : State, exec i s = .next t ∧
        t.arb = { s.arb with severs := put s.arb.severs p (some ⟨dstTag, srcTag, .stale⟩) } ∧
        t.entry p = s.heardEntry p ∧ OthersKeep p s t ∧
        FrameEnded s t ∧ OnlyWrites [.session, .arb, .line] s t) ∧
    (s.control.station = .leaving → s.line.state = .receiving .frame → s.own ≠ some p →
      ∃ t : State, exec i s = .next t ∧
        t.arb = { s.arb with severs := put s.arb.severs p (some ⟨dstTag, srcTag, .stale⟩) } ∧
        FrameEnded s t ∧ OnlyWrites [.arb, .line] s t) ∧
    (Hears p s → (s.entry p).state = .joining → (s.entry p).ownTag ≠ 0 → (s.entry p).peerTag ≠ 0 →
      srcTag = (s.entry p).peerTag → dstTag = (s.entry p).ownTag →
      (∀ pairs : PerClass TallyPair, i ≠ .tallyReceived p srcTag dstTag pairs) →
      ∃ t : State, exec i s = .next t ∧ FrameEnded s t ∧ OnlyWrites [.line] s t)

/-- R7, R8, R135, R164: while LEAVING an ANNOUNCE, a JOIN, a SEVER and a frame for a third station have no effect beyond
the end of the frame; while ACTIVE a frame for a third station gives its sender's entry the heard update alone. -/
def Obligations.HeardUpdateAlone : Prop :=
  ∀ (s : State) (p : Station) (kind : DirectedKind),
    (Hears p s → ∃ t : State, exec (.frameAddressedToAnotherStation kind p) s = .next t ∧
      t.entry p = s.heardEntry p ∧ OthersKeep p s t ∧ FrameEnded s t ∧ OnlyWrites [.session, .line] s t) ∧
    (s.control.station = .leaving → s.line.state = .receiving .frame → s.own ≠ some p →
      ∀ i : Instr, (∃ incarnation : Byte, i = .announceReceived p incarnation) ∨
        (∃ srcTag yourTag : Tag, i = .joinReceived p srcTag yourTag) ∨
        (∃ (srcTag dstTag : Tag) (reason : Byte), i = .severReceived p srcTag dstTag reason) ∨
        i = .frameAddressedToAnotherStation kind p →
      ∃ t : State, exec i s = .next t ∧ FrameEnded s t ∧ OnlyWrites [.line] s t)

/-- R134, R158, R164: a good frame of any kind that bears the own station number is not delivered: the station is MUTED
with DUPLICATE_STATION, in ACTIVE and in LEAVING, and the line error count is not raised. What a DONE slot no longer
needs is dropped (the model's choice, assumption log 16). -/
def Obligations.OwnNumberMutes : Prop :=
  ∀ (s : State) (i : Instr) (p : Station), i.wellFormed = true → receivedFrom i = some p → s.own = some p →
    s.control.station = .active ∨ s.control.station = .leaving → s.line.state = .receiving .frame → LineLaw s →
    ∃ t : State, exec i s = .next t ∧ Mutes .duplicateStation s t ∧ t.line.aborts = s.line.aborts

/-! ## Acknowledgment and credit -/

/-- R96 to R99: a matching TALLY on an OPEN session. Valid in every class, it completes the acknowledged slots SENT in
seq order, class by class, takes the new acked and limit and trims the resend point; where some class's acked advanced
the retry count is 0 and the ack timer is started while slots remain in flight, else stopped. Invalid in any class,
nothing of it is applied and the session is closed PROTOCOL. What a DONE slot no longer needs is dropped (the model's
choice, assumption log 16). -/
def Obligations.TallyOnOpenSession : Prop :=
  ∀ (s : State) (p : Station) (srcTag dstTag : Tag) (pairs : PerClass TallyPair), Hears p s →
    (s.entry p).state = .opened → (s.entry p).ownTag ≠ 0 → (s.entry p).peerTag ≠ 0 →
    srcTag = (s.entry p).peerTag → dstTag = (s.entry p).ownTag → SlotLaw s →
    if ∀ c : Cls,
        dist (look2 s.tx.counters p c).acked (look pairs c).accepted ≤
          dist (look2 s.tx.counters p c).acked (look2 s.tx.counters p c).next ∧
        dist (look pairs c).accepted (look2 s.tx.counters p c).next ≤
          dist (look pairs c).accepted (look pairs c).limit ∧
        dist (look pairs c).accepted (look pairs c).limit ≤ 8 then
      ∃ t : State, exec (.tallyReceived p srcTag dstTag pairs) s = .next t ∧
        Completed .sent .none
          (classes.flatMap fun c => (look2 s.tx.flights p c).filter
            (s.ackedBefore (look2 s.tx.counters p c).acked (look pairs c).accepted)) [] s t ∧
        (∀ c : Cls,
          look2 t.tx.flights p c = (look2 s.tx.flights p c).filter (fun i =>
            !s.ackedBefore (look2 s.tx.counters p c).acked (look pairs c).accepted i) ∧
          look2 t.tx.counters p c =
            { next := (look2 s.tx.counters p c).next, acked := (look pairs c).accepted, limit := (look pairs c).limit,
              resend :=
                if look2 t.tx.flights p c = [] then none
                else (look2 s.tx.counters p c).resend.map fun q =>
                  if dist (look2 s.tx.counters p c).acked q <
                    dist (look2 s.tx.counters p c).acked (look pairs c).accepted then (look pairs c).accepted else q }) ∧
        (if ∃ c : Cls, (look pairs c).accepted ≠ (look2 s.tx.counters p c).acked then
          look t.tx.retries p = 0 ∧
          look t.tx.ackTimers p =
            if ∃ c : Cls, look2 t.tx.flights p c ≠ [] then .running (s.record.ackTimeout + 1) else .stopped
        else look t.tx.retries p = look s.tx.retries p ∧ look t.tx.ackTimers p = look s.tx.ackTimers p) ∧
        OtherSendSidesKeep p s t ∧ t.tx.queues = s.tx.queues ∧ t.tx.sending = s.tx.sending ∧ t.tx.tie = s.tx.tie ∧
        t.tx.nextOrder = s.tx.nextOrder ∧
        t.entry p = s.heardEntry p ∧ OthersKeep p s t ∧
        FrameEnded s t ∧ OnlyWrites [.session, .tx, .line] s t
    else
      ∃ t : State, exec (.tallyReceived p srcTag dstTag pairs) s = .next t ∧
        Closes .protocol .lost (some ((s.entry p).severFor .protocol)) p s t ∧
        FrameEnded s t ∧ OnlyWrites [.session, .rx, .tx, .arb, .line, .port] s t

/-- R21: a TALLY that matches a JOINING entry opens it, as a JOIN that returns the own tag does, and is then processed
as a TALLY on the OPEN session. -/
def Obligations.TallyOpensJoiningEntry : Prop :=
  ∀ (s u : State) (p : Station) (srcTag dstTag : Tag) (pairs : PerClass TallyPair), Hears p s →
    (s.entry p).state = .joining → (s.entry p).ownTag ≠ 0 → (s.entry p).peerTag ≠ 0 →
    srcTag = (s.entry p).peerTag → dstTag = (s.entry p).ownTag →
    exec (.joinReceived p srcTag dstTag) s = .next u →
    (u.entry p).state = .opened ∧
    exec (.tallyReceived p srcTag dstTag pairs) s =
      exec (.tallyReceived p srcTag dstTag pairs) { u with line := s.line }

/-- R39, R40, R42: a matching MESSAGE of seq A on an OPEN session. With a reservation it is accepted: a slot RESERVED
for its peer and class holds it, the counts move, A advances and it stands at the tail of its queue. Without one it is a
credit overrun: CREDIT_OVERRUN is set and no slot or count changes. Each posts a TALLY claim. -/
def Obligations.InSequenceMessage : Prop :=
  ∀ (s : State) (p : Station) (srcTag dstTag : Tag) (c : Cls) (seq : Count) (payload : List Byte), Hears p s →
    (s.entry p).state = .opened → (s.entry p).ownTag ≠ 0 → (s.entry p).peerTag ≠ 0 →
    srcTag = (s.entry p).peerTag → dstTag = (s.entry p).ownTag → 1 ≤ payload.length → payload.length ≤ 500 →
    seq = (look2 s.rx.records p c).accepted →
    (0 < (look2 s.rx.records p c).reserved → (∃ i : RxIx, look s.rx.pool i = .reserved p c) →
      ∃ (t : State) (i : RxIx), exec (.messageReceived p srcTag dstTag c seq payload) s = .next t ∧
        look s.rx.pool i = .reserved p c ∧
        t.rx =
          { s.rx with
            pool := put s.rx.pool i (.occupied ⟨p, c, payload.length, payload⟩)
            records := put2 s.rx.records p c
              ⟨(look2 s.rx.records p c).accepted + 1, (look2 s.rx.records p c).limit,
                (look2 s.rx.records p c).reserved - 1, (look2 s.rx.records p c).occupied + 1⟩
            queues := put s.rx.queues c (look s.rx.queues c ++ [i]) } ∧
        t.arb = { s.arb with tallies := put s.arb.tallies p true } ∧
        t.entry p = s.heardEntry p ∧ OthersKeep p s t ∧
        FrameEnded s t ∧ OnlyWrites [.session, .rx, .arb, .line] s t) ∧
    ((look2 s.rx.records p c).reserved = 0 →
      ∃ t : State, exec (.messageReceived p srcTag dstTag c seq payload) s = .next t ∧
        t.control = { s.control with faults := { s.control.faults with creditOverrun := true } } ∧
        PortNotes (· = .creditOverrun) (fun _ => false) s t ∧
        t.arb = { s.arb with tallies := put s.arb.tallies p true } ∧
        t.entry p = s.heardEntry p ∧ OthersKeep p s t ∧
        FrameEnded s t ∧ OnlyWrites [.control, .session, .arb, .line, .port] s t)

/-- R41: a MESSAGE whose seq is not A is discarded: A, L, reserved, occupied and the pool are unchanged, whether it
comes before A or after it; a TALLY claim is posted, no line error is counted and no fault flag set. -/
def Obligations.DuplicateOrGapIsDiscarded : Prop :=
  ∀ (s : State) (p : Station) (srcTag dstTag : Tag) (c : Cls) (seq : Count) (payload : List Byte), Hears p s →
    (s.entry p).state = .opened → (s.entry p).ownTag ≠ 0 → (s.entry p).peerTag ≠ 0 →
    srcTag = (s.entry p).peerTag → dstTag = (s.entry p).ownTag → 1 ≤ payload.length → payload.length ≤ 500 →
    seq ≠ (look2 s.rx.records p c).accepted →
    ∃ t : State, exec (.messageReceived p srcTag dstTag c seq payload) s = .next t ∧
      t.rx = s.rx ∧ t.arb = { s.arb with tallies := put s.arb.tallies p true } ∧
      t.line.errors = s.line.errors ∧ t.control.faults = s.control.faults ∧
      t.entry p = s.heardEntry p ∧ OthersKeep p s t ∧
      FrameEnded s t ∧ OnlyWrites [.session, .arb, .line] s t

/-! ## Timers -/

/-- R24 to R27: the expiries of an entry's four timers. JOINING below the join attempts limit J counts an attempt,
posts a JOIN claim and starts the timer again; at J the entry is closed JOIN_FAILED into ABSENT. A LOST entry enters
fresh JOINING with peer tag 0. An OPEN entry is closed SILENT into LOST with a SEVER claim under its tags; its refresh
posts a TALLY claim and starts the timer again. What a DONE slot no longer needs is dropped (the model's choice,
assumption log 16). -/
def Obligations.SessionTimersExpire : Prop :=
  ∀ (s : State) (p : Station),
    ((s.entry p).state = .joining → (s.entry p).joinTimer.isRunning = true →
      (s.entry p).joinAttempts < s.record.joinAttempts →
      ∃ t : State, exec (.joinTimerExpiry p) s = .next t ∧
        t.entry p = { s.entry p with
          joinAttempts := (s.entry p).joinAttempts + 1, joinTimer := .running (s.record.joinInterval + 1) } ∧
        OthersKeep p s t ∧ t.arb = { s.arb with joins := put s.arb.joins p true } ∧
        OnlyWrites [.session, .arb] s t) ∧
    ((s.entry p).state = .joining → (s.entry p).joinTimer.isRunning = true →
      s.record.joinAttempts ≤ (s.entry p).joinAttempts →
      ∃ t : State, exec (.joinTimerExpiry p) s = .next t ∧ Closes .joinFailed .absent none p s t ∧
        OnlyWrites [.session, .rx, .tx, .arb, .port] s t) ∧
    ((s.entry p).state = .lost → (s.entry p).holdDownTimer.isRunning = true →
      ∃ t : State, exec (.holdDownExpiry p) s = .next t ∧ FreshlyJoins p 0 (s.entry p) s t ∧
        t.arb = { s.arb with joins := put s.arb.joins p true } ∧ OnlyWrites [.control, .session, .arb] s t) ∧
    ((s.entry p).state = .opened → (s.entry p).silenceTimer.isRunning = true →
      ∃ t : State, exec (.silenceExpiry p) s = .next t ∧
        Closes .silent .lost (some ((s.entry p).severFor .silent)) p s t ∧
        OnlyWrites [.session, .rx, .tx, .arb, .port] s t) ∧
    ((s.entry p).state = .opened → (s.entry p).refreshTimer.isRunning = true →
      ∃ t : State, exec (.refreshExpiry p) s = .next t ∧
        t.entry p = { s.entry p with refreshTimer := .running (s.record.refreshInterval + 1) } ∧ OthersKeep p s t ∧
        t.arb = { s.arb with tallies := put s.arb.tallies p true } ∧ OnlyWrites [.session, .arb] s t)

/-- R102, R14: the ack timer's expiry. Below the retry limit it counts a retry, leaves the timer stopped and puts the
resend point of every class with messages in flight at acked; at the limit it closes an OPEN entry UNRESPONSIVE. What a
DONE slot no longer needs is dropped (the model's choice, assumption log 16). -/
def Obligations.AckTimerExpires : Prop :=
  ∀ (s : State) (p : Station), (look s.tx.ackTimers p).isRunning = true →
    (look s.tx.retries p < s.record.retryLimit →
      ∃ t : State, exec (.ackTimerExpiry p) s = .next t ∧
        t.tx =
          { s.tx with
            ackTimers := put s.tx.ackTimers p .stopped
            retries := put s.tx.retries p (look s.tx.retries p + 1)
            counters := t.tx.counters } ∧
        (∀ (q : Station) (c : Cls), look2 t.tx.counters q c =
          if q = p ∧ look2 s.tx.flights p c ≠ [] then
            { look2 s.tx.counters p c with resend := some (look2 s.tx.counters p c).acked }
          else look2 s.tx.counters q c) ∧
        OnlyWrites [.tx] s t) ∧
    (s.record.retryLimit ≤ look s.tx.retries p → (s.entry p).state = .opened →
      ∃ t : State, exec (.ackTimerExpiry p) s = .next t ∧
        Closes .unresponsive .lost (some ((s.entry p).severFor .unresponsive)) p s t ∧
        OnlyWrites [.session, .rx, .tx, .arb, .port] s t)

/-! ## The laws that every step keeps -/

/-- R6, R4, R7, R159, R116, section 1.3: no step leaves an entry OPEN without two tags or JOINING without its own; each
timer of an entry runs in its state and in no other; outside ACTIVE every entry stays ABSENT; and a JOIN or TALLY claim
lives only while its entry is JOINING or OPEN. -/
def Obligations.SessionLawsKept : Prop :=
  ∀ s t : State, TagLaw s → TimerLaw s → QuietLaw s → ClaimLaw s → step s = .next t →
    TagLaw t ∧ TimerLaw t ∧ QuietLaw t ∧ ClaimLaw t

/-- R116, R124, R126, R127, R129, R130, R133, R137, R149, R161: the line is SILENT exactly outside ACTIVE and LEAVING; a
frame stands in the buffer and in hand exactly while it contends or is on the line; an abort marker is behind it only in
the gap or in silence; the two counts keep their ranges; a transaction stays open only while CS is low and RST high;
ATTN stays at the level its conditions give; and while RST is low every block keeps its reset values. -/
def Obligations.LineAndPortLawsKept : Prop :=
  ∀ s t : State, LineLaw s → CountLaw s → PortLaw s → step s = .next t → LineLaw t ∧ CountLaw t ∧ PortLaw t

/-- R29, R31, R33, R34, R51, R54, R162: every step keeps the receive side's accounting: the records count the slots,
reserved and occupied make up the grant of an OPEN peer, the distance from A to L is reserved, and the queues hold the
OCCUPIED slots of their classes; and while UNCONFIGURED every entry holds its reset values. With it a JOINING peer's
open always finds the FREE slots it needs (R31). -/
def Obligations.ReceiveLawsKept : Prop :=
  (∀ s t : State, ReceiveLaws s → step s = .next t → ReceiveLaws t) ∧
  ∀ (s : State) (p : Station), ReceiveLaws s → (s.entry p).state = .joining →
    (classes.map (s.toReserve p)).sum ≤ countIn RxSlot.isFree s.rx.pool

/-- R68, R69, R73, R77, R78, R80, R81, R88, R90, R101, R114: every step keeps the send side's accounting: every slot
stands where its state says and its record holds what that state has (transmit count 0 while QUEUED), the in-flight list
is the run of seqs from acked up to S, S lies within the limit heard, no more than 8 after acked, a contending first
transmission has credit, an ack timer runs only while something is in flight to its peer, and the records a COMPLETIONS
has still to clock out stand in the completion queue. -/
def Obligations.TransmitLawsKept : Prop :=
  ∀ s t : State, TransmitLaws s → step s = .next t → TransmitLaws t

/-- Every law holds after reset. -/
def Obligations.LawsHoldAtReset : Prop :=
  TagLaw State.reset ∧ TimerLaw State.reset ∧ ClaimLaw State.reset ∧ CountLaw State.reset ∧ PortLaw State.reset ∧
  ReceiveLaws State.reset ∧ TransmitLaws State.reset

/-! ## Encodings -/

/-- R123, R131, section 10.1: the bits of every frame a station can build are received as that frame, good, with every
field at every value. -/
def Obligations.FrameRoundTrip : Prop :=
  ∀ f : Frame, f.wellFormed = true → receiveBits f.lineBits = .good f

/-- Section 10.2, R137, R138: the bytes with which the host sends a command, most significant bit first, are decoded to
that command, with every field at every value; bytes after the fields are ignored, but for a SUBMIT's payload, and so
are the bits of a byte that CS rising cuts. -/
def Obligations.MosiRoundTrip : Prop :=
  ∀ (i : Instr) (bytes extra : List Byte) (cut : List Bool), i.wellFormed = true → mosiOf i = some bytes →
    cut.length < 8 →
    commandOfMosi bytes = some i ∧ commandOfPort (bytes.flatMap fieldBits ++ cut) = some i ∧
    ((∀ (d c : Byte) (tag len : BitVec 16) (payload : List Byte), i ≠ .submit d c tag len payload) →
      commandOfPort ((bytes ++ extra).flatMap fieldBits ++ cut) = some i)
end

