-- ==== Sys2Proof/Laws/Bits.lean ====
section
/-! SUPPORT. The small lemmas of the bit streams: a field written is read back wherever it stands (chapter 10, "Bit
order"), the bytes of a transaction are read back from their bits (R137), and a stuffed body is unstuffed to itself
(R123, R131). -/

namespace Sys2Proof

/-! ## Fields -/

@[simp] theorem length_fieldBits {w : Nat} (x : BitVec w) : (fieldBits x).length = w := by simp [fieldBits]

@[simp] theorem length_stationBits (p : Station) : (stationBits p).length = 4 := by simp [stationBits]

theorem bitsToNat_append (a b : List Bool) : bitsToNat (a ++ b) = bitsToNat a * 2 ^ b.length + bitsToNat b := by
  have h : ∀ (l : List Bool) (n : Nat),
      l.foldl (fun n b => 2 * n + b.toNat) n = n * 2 ^ l.length + l.foldl (fun n b => 2 * n + b.toNat) 0 := by
    intro l
    induction l with
    | nil => simp
    | cons x l ih =>
      intro n
      simp only [List.foldl_cons, List.length_cons]
      rw [ih (2 * n + x.toNat), ih (2 * 0 + x.toNat)]
      ring
  simp only [bitsToNat, List.foldl_append]
  exact h b _

/-- A field's bits spell its number. -/
theorem bitsToNat_fieldBits {w : Nat} (x : BitVec w) : bitsToNat (fieldBits x) = x.toNat := by
  induction w with
  | zero =>
    have : x = 0#0 := Subsingleton.elim _ _
    subst this
    rfl
  | succ w ih =>
    have hs : fieldBits x = fieldBits (x.setWidth' (Nat.le_refl _) >>> 1 |>.setWidth w) ++ [x.getLsbD 0] := by
      simp only [fieldBits, List.range_succ, List.map_append, List.map_cons, List.map_nil]
      congr 1
      · apply List.map_congr_left
        intro k hk
        have hk : k < w := List.mem_range.mp hk
        simp only [BitVec.getMsbD, BitVec.getLsbD_setWidth, BitVec.getLsbD_ushiftRight, BitVec.setWidth'_eq,
          BitVec.setWidth_eq]
        have e : 1 + (w - 1 - k) = w + 1 - 1 - k := by omega
        have h1 : k < w + 1 := by omega
        have h2 : w - 1 - k < w := by omega
        simp [e, h1, h2, hk]
      · simp [BitVec.getMsbD]
    rw [hs, bitsToNat_append, ih]
    have h0 : bitsToNat [x.getLsbD 0] = x.toNat % 2 := by
      simp only [bitsToNat, List.foldl_cons, List.foldl_nil, BitVec.getLsbD, Nat.testBit_zero]
      rcases Nat.mod_two_eq_zero_or_one x.toNat with h | h <;> simp [h]
    have hx := x.isLt
    have hw : x.toNat / 2 < 2 ^ w := by
      rw [Nat.div_lt_iff_lt_mul (by omega)]
      rw [Nat.pow_succ] at hx
      exact hx
    simp only [h0, List.length_cons, List.length_nil, BitVec.toNat_setWidth, BitVec.toNat_ushiftRight,
      BitVec.setWidth'_eq, BitVec.setWidth_eq, Nat.shiftRight_one, Nat.mod_eq_of_lt hw]
    omega

/-- A field is read back from where it was written. -/
theorem field_append {w : Nat} (x : BitVec w) (pre post : List Bool) {at_ : Nat} (h : at_ = pre.length) :
    field (pre ++ (fieldBits x ++ post)) at_ w = x := by
  subst h
  have : ((pre ++ (fieldBits x ++ post)).drop pre.length).take w = fieldBits x := by
    rw [List.drop_left]
    rw [List.take_append_of_le_length (by simp)]
    rw [List.take_of_length_le (by simp)]
  rw [field, this, bitsToNat_fieldBits]
  simp

/-- A station's field is read back. -/
theorem stationField_append (p : Station) (pre post : List Bool) {at_ : Nat} (h : at_ = pre.length) :
    stationField (pre ++ (stationBits p ++ post)) at_ = p := by
  have e : field (pre ++ (stationBits p ++ post)) at_ 4 = BitVec.ofNat 4 p.val := field_append _ pre post h
  rw [stationField, e]
  clear e
  revert p
  decide

/-! ## Bytes on the port (R137) -/

/-- The bits of a byte that has not ended are dropped. -/
theorem bytesOfBits_cut : ∀ cut : List Bool, cut.length < 8 → bytesOfBits cut = []
  | [], _ | [_], _ | [_, _], _ | [_, _, _], _ | [_, _, _, _], _ | [_, _, _, _, _], _ | [_, _, _, _, _, _], _
  | [_, _, _, _, _, _, _], _ => rfl
  | _ :: _ :: _ :: _ :: _ :: _ :: _ :: _ :: _, h => by simp only [List.length_cons] at h; omega

/-- Eight bits make their byte. -/
theorem bytesOfBits_byte (b : Byte) (rest : List Bool) : bytesOfBits (fieldBits b ++ rest) = b :: bytesOfBits rest := by
  have h : field (fieldBits b) 0 8 = b := by simpa using field_append b [] [] (at_ := 0) rfl
  have e : fieldBits b =
      [b.getMsbD 0, b.getMsbD 1, b.getMsbD 2, b.getMsbD 3, b.getMsbD 4, b.getMsbD 5, b.getMsbD 6, b.getMsbD 7] := rfl
  rw [e] at h ⊢
  simp only [List.cons_append, List.nil_append, bytesOfBits, h]

/-- Bytes sent most significant bit first are read back, and a byte cut short behind them is dropped. -/
theorem bytesOfBits_bits (bytes : List Byte) (cut : List Bool) (h : cut.length < 8) :
    bytesOfBits (bytes.flatMap fieldBits ++ cut) = bytes := by
  induction bytes with
  | nil => exact bytesOfBits_cut cut h
  | cons b l ih => rw [List.flatMap_cons, List.append_assoc, bytesOfBits_byte, ih]

/-! ## Stuffing (R123, R131) -/

/-- A body that no condition of R132 stops on the way, and that is whole at its last bit and not before, is unstuffed to
itself: what follows is the end delimiter. -/
theorem readBody_stuff (rest : List Bool) (hne : rest ≠ []) (last : Bool) (run : Nat) (got : List Bool) (hrun : run < 5)
    (hgood : ∀ k, k < rest.length → foundBad (got ++ rest.take (k + 1)) = none)
    (hpart : ∀ k, k + 1 < rest.length → bodyWhole (got ++ rest.take (k + 1)) = false)
    (hwhole : bodyWhole (got ++ rest) = true) (tail : List Bool) :
    readBody last run got (stuff last run rest ++ tail) = readEnd (got ++ rest) 8 tail := by
  induction rest generalizing last run got with
  | nil => exact absurd rfl hne
  | cons b bs ih =>
    have hb := hgood 0 (by simp)
    simp only [Nat.zero_add, List.take_succ_cons, List.take_zero] at hb
    have hrun5 : run ≠ 5 := by omega
    -- what the rest of the body asks, once `b` is read
    have hg' : ∀ k, k < bs.length → foundBad ((got ++ [b]) ++ bs.take (k + 1)) = none := by
      intro k hk
      have := hgood (k + 1) (by simpa using hk)
      simpa [List.take_succ_cons] using this
    have hp' : ∀ k, k + 1 < bs.length → bodyWhole ((got ++ [b]) ++ bs.take (k + 1)) = false := by
      intro k hk
      have := hpart (k + 1) (by simpa using hk)
      simpa [List.take_succ_cons] using this
    have hw' : bodyWhole ((got ++ [b]) ++ bs) = true := by simpa using hwhole
    have he : got ++ b :: bs = (got ++ [b]) ++ bs := by simp
    have hnb : bs ≠ [] → bodyWhole (got ++ [b]) = false := by
      intro h
      have := hpart 0 (by have := List.length_pos_iff.mpr h; simp; omega)
      simpa using this
    rw [he]
    generalize hnow : (if b = last then run + 1 else 1) = now
    have hnow5 : now ≤ 5 := by rw [← hnow]; split <;> omega
    by_cases h5 : now = 5
    · have hs : stuff last run (b :: bs) = b :: (!b) :: stuff (!b) 1 bs := by simp [stuff, hnow, h5]
      rw [hs, List.cons_append, List.cons_append, readBody]
      simp only [hrun5, if_false, hnow, h5, hb, ne_eq, not_true_eq_false, and_false]
      rw [readBody]
      simp only [if_true]
      have hnb2 : ¬((!b) = b) := by cases b <;> simp
      rw [if_neg hnb2]
      by_cases hbs : bs = []
      · subst hbs
        have hw2 : bodyWhole (got ++ [b]) = true := by simpa using hw'
        simp [hw2, stuff]
      · simp only [hnb hbs, Bool.false_eq_true, if_false]
        exact ih hbs (!b) 1 (got ++ [b]) (by omega) hg' hp' hw'
    · have hs : stuff last run (b :: bs) = b :: stuff b now bs := by simp [stuff, hnow, h5]
      rw [hs, List.cons_append, readBody]
      simp only [hrun5, if_false, hnow, hb]
      by_cases hbs : bs = []
      · subst hbs
        have hw2 : bodyWhole (got ++ [b]) = true := by simpa using hw'
        simp [hw2, h5, stuff]
      · simp only [hnb hbs, Bool.false_eq_true, false_and, if_false]
        exact ih hbs b now (got ++ [b]) (by omega) hg' hp' hw'

/-- The end delimiter's eight recessive bits end the frame (R131). -/
theorem readEnd_delimiter (body : List Bool) :
    readEnd body 8 endDelimiter =
      match frameOfBody body with
      | some f => .good f
      | none => .discarded .badKind := by
  cases h : frameOfBody body <;> simp [endDelimiter, readEnd, List.replicate, h]

end Sys2Proof
end

