-- ==== Sys2Proof/Laws/State.lean ====
section
/-! SUPPORT. The small lemmas of the state: reading a table after writing it, and for each operation on the station one
lemma per block, true by rfl, that says what the block is after it. No later proof unfolds a record update. -/

namespace Sys2Proof.Machine

/-! ## Tables -/

section Tables
variable {α β : Type} {m n : Nat}

@[simp] theorem look_put_self (v : Vector α n) (i : Fin n) (a : α) : look (put v i a) i = a := by
  simp [look, put]

theorem look_put_ne (v : Vector α n) {i j : Fin n} (a : α) (h : i ≠ j) : look (put v i a) j = look v j := by
  have : i.val ≠ j.val := fun e => h (Fin.ext e)
  simp [look, put, Vector.getElem_set_ne, this]

/-- Reading after writing, whichever the two places are. -/
theorem look_put (v : Vector α n) (i j : Fin n) (a : α) : look (put v i a) j = if i = j then a else look v j := by
  by_cases h : i = j
  · subst h; simp
  · simp [h, look_put_ne v a h]

@[simp] theorem look_alter_self (v : Vector α n) (i : Fin n) (f : α → α) : look (alter v i f) i = f (look v i) := by
  simp [alter]

theorem look_alter_ne (v : Vector α n) {i j : Fin n} (f : α → α) (h : i ≠ j) : look (alter v i f) j = look v j := by
  simp [alter, look_put_ne v _ h]

theorem look_alter (v : Vector α n) (i j : Fin n) (f : α → α) :
    look (alter v i f) j = if i = j then f (look v i) else look v j := by
  simp [alter, look_put]

@[simp] theorem look_replicate (a : α) (i : Fin n) : look (Vector.replicate n a) i = a := by
  simp [look]

@[simp] theorem look_mapAll (f : α → β) (v : Vector α n) (i : Fin n) : look (mapAll f v) i = f (look v i) := by
  simp [look, mapAll]

@[simp] theorem look2_put2_self (v : Vector (Vector α n) m) (p : Fin m) (c : Fin n) (a : α) :
    look2 (put2 v p c a) p c = a := by
  simp [look2, put2]

/-- Reading a peer and class after writing one, whichever the two are. -/
theorem look2_put2 (v : Vector (Vector α n) m) (p q : Fin m) (c d : Fin n) (a : α) :
    look2 (put2 v p c a) q d = if p = q ∧ c = d then a else look2 v q d := by
  by_cases h : p = q
  · subst h; simp [look2, put2, look_put]
  · simp [look2, put2, look_put_ne v _ h, h]

theorem look2_put2_ne (v : Vector (Vector α n) m) {p q : Fin m} {c d : Fin n} (a : α) (h : ¬(p = q ∧ c = d)) :
    look2 (put2 v p c a) q d = look2 v q d := by
  simp [look2_put2, h]

/-- Reading a peer and class after writing all of one peer's classes. -/
theorem look2_put (v : Vector (Vector α n) m) (p q : Fin m) (w : Vector α n) (c : Fin n) :
    look2 (put v p w) q c = if p = q then look w c else look2 v q c := by
  by_cases h : p = q
  · subst h; simp [look2]
  · simp [look2, look_put_ne v _ h, h]

@[simp] theorem look2_replicate (a : α) (p : Fin m) (c : Fin n) :
    look2 (Vector.replicate m (Vector.replicate n a)) p c = a := by
  simp [look2]

/-- Two tables are equal when they agree at every index. -/
theorem table_ext (v w : Vector α n) (h : ∀ i, look v i = look w i) : v = w := by
  apply Vector.ext
  intro i hi
  exact h ⟨i, hi⟩

theorem put_look_self (v : Vector α n) (i : Fin n) : put v i (look v i) = v := by
  apply table_ext
  intro j
  by_cases h : i = j
  · subst h; simp
  · simp [look_put_ne v _ h]

theorem mem_finRange_find {f : Fin n → Bool} {i : Fin n} (h : (List.finRange n).find? f = some i) : f i = true :=
  List.find?_some h

/-- What `findIx` finds satisfies the test. -/
theorem findIx_some {f : α → Bool} {v : Vector α n} {i : Fin n} (h : findIx f v = some i) : f (look v i) = true :=
  List.find?_some (p := fun i => f (look v i)) h

/-- `findIx` finds nothing exactly where nothing satisfies the test. -/
theorem findIx_none {f : α → Bool} {v : Vector α n} : findIx f v = none ↔ ∀ i, f (look v i) = false := by
  simp [findIx]

end Tables

/-! ## Stations, classes, choices -/

@[simp] theorem mem_stations (p : Station) : p ∈ stations := by
  revert p; decide

@[simp] theorem mem_classes (c : Cls) : c ∈ classes := by
  revert c; decide

/-- What the round-robin count finds satisfies the test (R113). -/
theorem nextAfter_some {ptr p : Station} {f : Station → Bool} (h : nextAfter ptr f = some p) : f p = true :=
  List.find?_some h

/-- The round-robin count finds nothing exactly where no station satisfies the test (R113). -/
theorem nextAfter_none {ptr : Station} {f : Station → Bool} : nextAfter ptr f = none ↔ ∀ p, f p = false := by
  have reach : ∀ ptr p : Station, ∃ k ∈ stations, ptr + 1 + k = p := by decide
  constructor
  · intro h p
    obtain ⟨k, hk, rfl⟩ := reach ptr p
    simpa using (List.find?_eq_none.mp h) _ (List.mem_map_of_mem hk)
  · intro h
    exact List.find?_eq_none.mpr fun p _ => by simp [h p]

/-- A drawn order holds the same items, each as often (assumption log 3). -/
theorem inDrawnOrder_perm {α : Type} (n : Nat) (item : α → Nat) (xs : List α) : (inDrawnOrder n item xs).Perm xs :=
  List.perm_insertionSort _ _

@[simp] theorem mem_inDrawnOrder {α : Type} (n : Nat) (item : α → Nat) (xs : List α) (a : α) :
    a ∈ inDrawnOrder n item xs ↔ a ∈ xs :=
  (inDrawnOrder_perm n item xs).mem_iff

/-! ## Operations on the station, block by block -/

section Blocks
variable (s : State)

@[simp] theorem setEntry_control (p : Station) (e : PeerEntry) : (s.setEntry p e).control = s.control := rfl
@[simp] theorem setEntry_session (p : Station) (e : PeerEntry) : (s.setEntry p e).session = put s.session p e := rfl
@[simp] theorem setEntry_rx (p : Station) (e : PeerEntry) : (s.setEntry p e).rx = s.rx := rfl
@[simp] theorem setEntry_tx (p : Station) (e : PeerEntry) : (s.setEntry p e).tx = s.tx := rfl
@[simp] theorem setEntry_arb (p : Station) (e : PeerEntry) : (s.setEntry p e).arb = s.arb := rfl
@[simp] theorem setEntry_line (p : Station) (e : PeerEntry) : (s.setEntry p e).line = s.line := rfl
@[simp] theorem setEntry_port (p : Station) (e : PeerEntry) : (s.setEntry p e).port = s.port := rfl
@[simp] theorem setEntry_draws (p : Station) (e : PeerEntry) : (s.setEntry p e).draws = s.draws := rfl
@[simp] theorem setEntry_pending (p : Station) (e : PeerEntry) : (s.setEntry p e).pending = s.pending := rfl

@[simp] theorem setStation_control (x : StationState) :
    (s.setStation x).control =
      { s.control with station := x } := rfl
@[simp] theorem setStation_session (x : StationState) : (s.setStation x).session = s.session := rfl
@[simp] theorem setStation_rx (x : StationState) : (s.setStation x).rx = s.rx := rfl
@[simp] theorem setStation_tx (x : StationState) : (s.setStation x).tx = s.tx := rfl
@[simp] theorem setStation_arb (x : StationState) : (s.setStation x).arb = s.arb := rfl
@[simp] theorem setStation_line (x : StationState) : (s.setStation x).line = s.line := rfl
@[simp] theorem setStation_port (x : StationState) : (s.setStation x).port = s.port := rfl
@[simp] theorem setStation_draws (x : StationState) : (s.setStation x).draws = s.draws := rfl
@[simp] theorem setStation_pending (x : StationState) : (s.setStation x).pending = s.pending := rfl

@[simp] theorem setLine_control (x : LineState) : (s.setLine x).control = s.control := rfl
@[simp] theorem setLine_session (x : LineState) : (s.setLine x).session = s.session := rfl
@[simp] theorem setLine_rx (x : LineState) : (s.setLine x).rx = s.rx := rfl
@[simp] theorem setLine_tx (x : LineState) : (s.setLine x).tx = s.tx := rfl
@[simp] theorem setLine_arb (x : LineState) : (s.setLine x).arb = s.arb := rfl
@[simp] theorem setLine_line (x : LineState) : (s.setLine x).line = { s.line with state := x } := rfl
@[simp] theorem setLine_port (x : LineState) : (s.setLine x).port = s.port := rfl
@[simp] theorem setLine_draws (x : LineState) : (s.setLine x).draws = s.draws := rfl
@[simp] theorem setLine_pending (x : LineState) : (s.setLine x).pending = s.pending := rfl

@[simp] theorem setMarker_control (b : Bool) : (s.setMarker b).control = s.control := rfl
@[simp] theorem setMarker_session (b : Bool) : (s.setMarker b).session = s.session := rfl
@[simp] theorem setMarker_rx (b : Bool) : (s.setMarker b).rx = s.rx := rfl
@[simp] theorem setMarker_tx (b : Bool) : (s.setMarker b).tx = s.tx := rfl
@[simp] theorem setMarker_arb (b : Bool) : (s.setMarker b).arb = s.arb := rfl
@[simp] theorem setMarker_line (b : Bool) : (s.setMarker b).line = { s.line with marker := b } := rfl
@[simp] theorem setMarker_port (b : Bool) : (s.setMarker b).port = s.port := rfl
@[simp] theorem setMarker_draws (b : Bool) : (s.setMarker b).draws = s.draws := rfl
@[simp] theorem setMarker_pending (b : Bool) : (s.setMarker b).pending = s.pending := rfl

@[simp] theorem emptyBuffer_control : (s.emptyBuffer).control = s.control := rfl
@[simp] theorem emptyBuffer_session : (s.emptyBuffer).session = s.session := rfl
@[simp] theorem emptyBuffer_rx : (s.emptyBuffer).rx = s.rx := rfl
@[simp] theorem emptyBuffer_tx : (s.emptyBuffer).tx = s.tx := rfl
@[simp] theorem emptyBuffer_arb : (s.emptyBuffer).arb = s.arb := rfl
@[simp] theorem emptyBuffer_line : (s.emptyBuffer).line = { s.line with outbound := none } := rfl
@[simp] theorem emptyBuffer_port : (s.emptyBuffer).port = s.port := rfl
@[simp] theorem emptyBuffer_draws : (s.emptyBuffer).draws = s.draws := rfl
@[simp] theorem emptyBuffer_pending : (s.emptyBuffer).pending = s.pending := rfl

@[simp] theorem setFault_control (n : FaultName) :
    (s.setFault n).control =
      { s.control with faults := s.control.faults.set n } := rfl
@[simp] theorem setFault_session (n : FaultName) : (s.setFault n).session = s.session := rfl
@[simp] theorem setFault_rx (n : FaultName) : (s.setFault n).rx = s.rx := rfl
@[simp] theorem setFault_tx (n : FaultName) : (s.setFault n).tx = s.tx := rfl
@[simp] theorem setFault_arb (n : FaultName) : (s.setFault n).arb = s.arb := rfl
@[simp] theorem setFault_line (n : FaultName) : (s.setFault n).line = s.line := rfl
@[simp] theorem setFault_port (n : FaultName) : (s.setFault n).port = s.port.onCommand (.noteFault n) := rfl
@[simp] theorem setFault_draws (n : FaultName) : (s.setFault n).draws = s.draws := rfl
@[simp] theorem setFault_pending (n : FaultName) : (s.setFault n).pending = s.pending := rfl

@[simp] theorem noteChanged_control (p : Station) : (s.noteChanged p).control = s.control := rfl
@[simp] theorem noteChanged_session (p : Station) : (s.noteChanged p).session = s.session := rfl
@[simp] theorem noteChanged_rx (p : Station) : (s.noteChanged p).rx = s.rx := rfl
@[simp] theorem noteChanged_tx (p : Station) : (s.noteChanged p).tx = s.tx := rfl
@[simp] theorem noteChanged_arb (p : Station) : (s.noteChanged p).arb = s.arb := rfl
@[simp] theorem noteChanged_line (p : Station) : (s.noteChanged p).line = s.line := rfl
@[simp] theorem noteChanged_port (p : Station) : (s.noteChanged p).port = s.port.onCommand (.noteChanged p) := rfl
@[simp] theorem noteChanged_draws (p : Station) : (s.noteChanged p).draws = s.draws := rfl
@[simp] theorem noteChanged_pending (p : Station) : (s.noteChanged p).pending = s.pending := rfl

@[simp] theorem driveAttn_control : (s.driveAttn).control = s.control := rfl
@[simp] theorem driveAttn_session : (s.driveAttn).session = s.session := rfl
@[simp] theorem driveAttn_rx : (s.driveAttn).rx = s.rx := rfl
@[simp] theorem driveAttn_tx : (s.driveAttn).tx = s.tx := rfl
@[simp] theorem driveAttn_arb : (s.driveAttn).arb = s.arb := rfl
@[simp] theorem driveAttn_line : (s.driveAttn).line = s.line := rfl
@[simp] theorem driveAttn_port : (s.driveAttn).port = { s.port with attn := s.attnLevel } := rfl
@[simp] theorem driveAttn_draws : (s.driveAttn).draws = s.draws := rfl
@[simp] theorem driveAttn_pending : (s.driveAttn).pending = s.pending := rfl

@[simp] theorem claimJoin_control (p : Station) : (s.claimJoin p).control = s.control := rfl
@[simp] theorem claimJoin_session (p : Station) : (s.claimJoin p).session = s.session := rfl
@[simp] theorem claimJoin_rx (p : Station) : (s.claimJoin p).rx = s.rx := rfl
@[simp] theorem claimJoin_tx (p : Station) : (s.claimJoin p).tx = s.tx := rfl
@[simp] theorem claimJoin_arb (p : Station) : (s.claimJoin p).arb = s.arb.claimJoin p := rfl
@[simp] theorem claimJoin_line (p : Station) : (s.claimJoin p).line = s.line := rfl
@[simp] theorem claimJoin_port (p : Station) : (s.claimJoin p).port = s.port := rfl
@[simp] theorem claimJoin_draws (p : Station) : (s.claimJoin p).draws = s.draws := rfl
@[simp] theorem claimJoin_pending (p : Station) : (s.claimJoin p).pending = s.pending := rfl

@[simp] theorem claimTally_control (p : Station) : (s.claimTally p).control = s.control := rfl
@[simp] theorem claimTally_session (p : Station) : (s.claimTally p).session = s.session := rfl
@[simp] theorem claimTally_rx (p : Station) : (s.claimTally p).rx = s.rx := rfl
@[simp] theorem claimTally_tx (p : Station) : (s.claimTally p).tx = s.tx := rfl
@[simp] theorem claimTally_arb (p : Station) : (s.claimTally p).arb = s.arb.claimTally p := rfl
@[simp] theorem claimTally_line (p : Station) : (s.claimTally p).line = s.line := rfl
@[simp] theorem claimTally_port (p : Station) : (s.claimTally p).port = s.port := rfl
@[simp] theorem claimTally_draws (p : Station) : (s.claimTally p).draws = s.draws := rfl
@[simp] theorem claimTally_pending (p : Station) : (s.claimTally p).pending = s.pending := rfl

@[simp] theorem claimSever_control (p : Station) (c : SeverClaim) : (s.claimSever p c).control = s.control := rfl
@[simp] theorem claimSever_session (p : Station) (c : SeverClaim) : (s.claimSever p c).session = s.session := rfl
@[simp] theorem claimSever_rx (p : Station) (c : SeverClaim) : (s.claimSever p c).rx = s.rx := rfl
@[simp] theorem claimSever_tx (p : Station) (c : SeverClaim) : (s.claimSever p c).tx = s.tx := rfl
@[simp] theorem claimSever_arb (p : Station) (c : SeverClaim) : (s.claimSever p c).arb = s.arb.claimSever p c := rfl
@[simp] theorem claimSever_line (p : Station) (c : SeverClaim) : (s.claimSever p c).line = s.line := rfl
@[simp] theorem claimSever_port (p : Station) (c : SeverClaim) : (s.claimSever p c).port = s.port := rfl
@[simp] theorem claimSever_draws (p : Station) (c : SeverClaim) : (s.claimSever p c).draws = s.draws := rfl
@[simp] theorem claimSever_pending (p : Station) (c : SeverClaim) : (s.claimSever p c).pending = s.pending := rfl

@[simp] theorem staleSever_control (p : Station) (a b : Tag) : (s.staleSever p a b).control = s.control := rfl
@[simp] theorem staleSever_session (p : Station) (a b : Tag) : (s.staleSever p a b).session = s.session := rfl
@[simp] theorem staleSever_rx (p : Station) (a b : Tag) : (s.staleSever p a b).rx = s.rx := rfl
@[simp] theorem staleSever_tx (p : Station) (a b : Tag) : (s.staleSever p a b).tx = s.tx := rfl
@[simp] theorem staleSever_arb (p : Station) (a b : Tag) :
    (s.staleSever p a b).arb =
      s.arb.claimSever p ⟨b, a, .stale⟩ := rfl
@[simp] theorem staleSever_line (p : Station) (a b : Tag) : (s.staleSever p a b).line = s.line := rfl
@[simp] theorem staleSever_port (p : Station) (a b : Tag) : (s.staleSever p a b).port = s.port := rfl
@[simp] theorem staleSever_draws (p : Station) (a b : Tag) : (s.staleSever p a b).draws = s.draws := rfl
@[simp] theorem staleSever_pending (p : Station) (a b : Tag) : (s.staleSever p a b).pending = s.pending := rfl

@[simp] theorem advanceTags_control :
    (s.advanceTags).control =
      { s.control with tagCounter := nextTagCounter s.control.tagCounter } := rfl
@[simp] theorem advanceTags_session : (s.advanceTags).session = s.session := rfl
@[simp] theorem advanceTags_rx : (s.advanceTags).rx = s.rx := rfl
@[simp] theorem advanceTags_tx : (s.advanceTags).tx = s.tx := rfl
@[simp] theorem advanceTags_arb : (s.advanceTags).arb = s.arb := rfl
@[simp] theorem advanceTags_line : (s.advanceTags).line = s.line := rfl
@[simp] theorem advanceTags_port : (s.advanceTags).port = s.port := rfl
@[simp] theorem advanceTags_draws : (s.advanceTags).draws = s.draws := rfl
@[simp] theorem advanceTags_pending : (s.advanceTags).pending = s.pending := rfl

@[simp] theorem freshJoining_control (p : Station) (t : Tag) :
    (s.freshJoining p t).control =
      { s.control with tagCounter := nextTagCounter s.control.tagCounter } := rfl
@[simp] theorem freshJoining_session (p : Station) (t : Tag) :
    (s.freshJoining p t).session =
      put s.session p ((s.entry p).freshJoining s.drawnTag t s.record.joinInterval) := rfl
@[simp] theorem freshJoining_rx (p : Station) (t : Tag) : (s.freshJoining p t).rx = s.rx := rfl
@[simp] theorem freshJoining_tx (p : Station) (t : Tag) : (s.freshJoining p t).tx = s.tx := rfl
@[simp] theorem freshJoining_arb (p : Station) (t : Tag) : (s.freshJoining p t).arb = s.arb.claimJoin p := rfl
@[simp] theorem freshJoining_line (p : Station) (t : Tag) : (s.freshJoining p t).line = s.line := rfl
@[simp] theorem freshJoining_port (p : Station) (t : Tag) : (s.freshJoining p t).port = s.port := rfl
@[simp] theorem freshJoining_draws (p : Station) (t : Tag) : (s.freshJoining p t).draws = s.draws := rfl
@[simp] theorem freshJoining_pending (p : Station) (t : Tag) : (s.freshJoining p t).pending = s.pending := rfl

@[simp] theorem openSession_control (p : Station) : (s.openSession p).control = s.control := rfl
@[simp] theorem openSession_session (p : Station) :
    (s.openSession p).session =
      put s.session p ((s.entry p).openedWith s.record.silenceMs s.record.refreshInterval) := rfl
@[simp] theorem openSession_rx (p : Station) : (s.openSession p).rx = s.rx.reserve p s.record.grants := rfl
@[simp] theorem openSession_tx (p : Station) : (s.openSession p).tx = s.tx := rfl
@[simp] theorem openSession_arb (p : Station) : (s.openSession p).arb = (s.arb.withdrawJoin p).claimTally p := rfl
@[simp] theorem openSession_line (p : Station) : (s.openSession p).line = s.line := rfl
@[simp] theorem openSession_port (p : Station) : (s.openSession p).port = s.port.onCommand (.noteChanged p) := rfl
@[simp] theorem openSession_draws (p : Station) : (s.openSession p).draws = s.draws := rfl
@[simp] theorem openSession_pending (p : Station) : (s.openSession p).pending = s.pending := rfl

@[simp] theorem closeSession_control (r : CloseReason) (p : Station) : (s.closeSession r p).control = s.control := rfl
@[simp] theorem closeSession_session (r : CloseReason) (p : Station) :
    (s.closeSession r p).session =
      put s.session p ((s.entry p).closed r s.record.holdDownMs) := rfl
@[simp] theorem closeSession_rx (r : CloseReason) (p : Station) : (s.closeSession r p).rx = s.rx.freePeer p := rfl
@[simp] theorem closeSession_tx (r : CloseReason) (p : Station) : (s.closeSession r p).tx = s.tx.closePeer p r := rfl
@[simp] theorem closeSession_arb (r : CloseReason) (p : Station) :
    (s.closeSession r p).arb =
      s.arb.closePeer p (s.entry p) r := rfl
@[simp] theorem closeSession_line (r : CloseReason) (p : Station) : (s.closeSession r p).line = s.line := rfl
@[simp] theorem closeSession_port (r : CloseReason) (p : Station) :
    (s.closeSession r p).port =
      s.port.onCommand (.noteChanged p) := rfl
@[simp] theorem closeSession_draws (r : CloseReason) (p : Station) : (s.closeSession r p).draws = s.draws := rfl
@[simp] theorem closeSession_pending (r : CloseReason) (p : Station) : (s.closeSession r p).pending = s.pending := rfl

@[simp] theorem lostNotice_control : (s.lostNotice).control = s.control := rfl
@[simp] theorem lostNotice_session : (s.lostNotice).session = s.session := rfl
@[simp] theorem lostNotice_rx : (s.lostNotice).rx = s.rx := rfl
@[simp] theorem lostNotice_tx : (s.lostNotice).tx = s.tx.lost := rfl
@[simp] theorem lostNotice_arb : (s.lostNotice).arb = s.arb.giveBack s.isActive := rfl
@[simp] theorem lostNotice_line : (s.lostNotice).line = s.line := rfl
@[simp] theorem lostNotice_port : (s.lostNotice).port = s.port := rfl
@[simp] theorem lostNotice_draws : (s.lostNotice).draws = s.draws := rfl
@[simp] theorem lostNotice_pending : (s.lostNotice).pending = s.pending := rfl

@[simp] theorem abortedNotice_control : (s.abortedNotice).control = s.control := rfl
@[simp] theorem abortedNotice_session : (s.abortedNotice).session = s.session := rfl
@[simp] theorem abortedNotice_rx : (s.abortedNotice).rx = s.rx := rfl
@[simp] theorem abortedNotice_tx : (s.abortedNotice).tx = s.tx.aborted := rfl
@[simp] theorem abortedNotice_arb : (s.abortedNotice).arb = s.arb.giveBack s.isActive := rfl
@[simp] theorem abortedNotice_line : (s.abortedNotice).line = s.line := rfl
@[simp] theorem abortedNotice_port : (s.abortedNotice).port = s.port := rfl
@[simp] theorem abortedNotice_draws : (s.abortedNotice).draws = s.draws := rfl
@[simp] theorem abortedNotice_pending : (s.abortedNotice).pending = s.pending := rfl

@[simp] theorem idleEnded_control : (s.idleEnded).control = s.control := rfl
@[simp] theorem idleEnded_session : (s.idleEnded).session = s.session := rfl
@[simp] theorem idleEnded_rx : (s.idleEnded).rx = s.rx := rfl
@[simp] theorem idleEnded_tx : (s.idleEnded).tx = s.tx := rfl
@[simp] theorem idleEnded_arb : (s.idleEnded).arb = { s.arb with yield := false } := rfl
@[simp] theorem idleEnded_line : (s.idleEnded).line = s.line := rfl
@[simp] theorem idleEnded_port : (s.idleEnded).port = s.port := rfl
@[simp] theorem idleEnded_draws : (s.idleEnded).draws = s.draws := rfl
@[simp] theorem idleEnded_pending : (s.idleEnded).pending = s.pending := rfl

@[simp] theorem build_control (ch : Choice) : (s.build ch).control = s.control := rfl
@[simp] theorem build_session (ch : Choice) : (s.build ch).session = s.session := rfl
@[simp] theorem build_rx (ch : Choice) : (s.build ch).rx = s.rx := rfl
@[simp] theorem build_tx (ch : Choice) : (s.build ch).tx = s.tx.take ch := rfl
@[simp] theorem build_arb (ch : Choice) : (s.build ch).arb = s.arb.take ch := rfl
@[simp] theorem build_line (ch : Choice) :
    (s.build ch).line =
      { s.line with outbound := some (s.frameOf ch), state := .contending } := rfl
@[simp] theorem build_port (ch : Choice) : (s.build ch).port = s.port := rfl
@[simp] theorem build_draws (ch : Choice) : (s.build ch).draws = s.draws := rfl
@[simp] theorem build_pending (ch : Choice) : (s.build ch).pending = s.pending := rfl

@[simp] theorem loseFrame_control (ph : ReadPhase) : (s.loseFrame ph).control = s.control := rfl
@[simp] theorem loseFrame_session (ph : ReadPhase) : (s.loseFrame ph).session = s.session := rfl
@[simp] theorem loseFrame_rx (ph : ReadPhase) : (s.loseFrame ph).rx = s.rx := rfl
@[simp] theorem loseFrame_tx (ph : ReadPhase) : (s.loseFrame ph).tx = s.tx.lost := rfl
@[simp] theorem loseFrame_arb (ph : ReadPhase) :
    (s.loseFrame ph).arb =
      ({ s.arb with yield := false } : Arbiter).giveBack s.isActive := rfl
@[simp] theorem loseFrame_line (ph : ReadPhase) :
    (s.loseFrame ph).line =
      { s.line with outbound := none, state := .receiving ph } := rfl
@[simp] theorem loseFrame_port (ph : ReadPhase) : (s.loseFrame ph).port = s.port := rfl
@[simp] theorem loseFrame_draws (ph : ReadPhase) : (s.loseFrame ph).draws = s.draws := rfl
@[simp] theorem loseFrame_pending (ph : ReadPhase) : (s.loseFrame ph).pending = s.pending := rfl

@[simp] theorem taken_control (c : TxnCommand) (l : List Byte) : (s.taken c l).control = s.control := rfl
@[simp] theorem taken_session (c : TxnCommand) (l : List Byte) : (s.taken c l).session = s.session := rfl
@[simp] theorem taken_rx (c : TxnCommand) (l : List Byte) : (s.taken c l).rx = s.rx := rfl
@[simp] theorem taken_tx (c : TxnCommand) (l : List Byte) : (s.taken c l).tx = s.tx := rfl
@[simp] theorem taken_arb (c : TxnCommand) (l : List Byte) : (s.taken c l).arb = s.arb := rfl
@[simp] theorem taken_line (c : TxnCommand) (l : List Byte) : (s.taken c l).line = s.line := rfl
@[simp] theorem taken_port (c : TxnCommand) (l : List Byte) :
    (s.taken c l).port =
      { s.port with txn := s.port.txn.map fun t => { t with command := c, reply := l } } := rfl
@[simp] theorem taken_draws (c : TxnCommand) (l : List Byte) : (s.taken c l).draws = s.draws := rfl
@[simp] theorem taken_pending (c : TxnCommand) (l : List Byte) : (s.taken c l).pending = s.pending := rfl

@[simp] theorem decided_control (r : Result) : (s.decided r).control = s.control := rfl
@[simp] theorem decided_session (r : Result) : (s.decided r).session = s.session := rfl
@[simp] theorem decided_rx (r : Result) : (s.decided r).rx = s.rx := rfl
@[simp] theorem decided_tx (r : Result) : (s.decided r).tx = s.tx := rfl
@[simp] theorem decided_arb (r : Result) : (s.decided r).arb = s.arb := rfl
@[simp] theorem decided_line (r : Result) : (s.decided r).line = s.line := rfl
@[simp] theorem decided_port (r : Result) :
    (s.decided r).port =
      { s.port with txn := s.port.txn.map fun t => { t with command := .decided r, reply := [] } } := rfl
@[simp] theorem decided_draws (r : Result) : (s.decided r).draws = s.draws := rfl
@[simp] theorem decided_pending (r : Result) : (s.decided r).pending = s.pending := rfl

@[simp] theorem setCommand_control (c : TxnCommand) : (s.setCommand c).control = s.control := rfl
@[simp] theorem setCommand_session (c : TxnCommand) : (s.setCommand c).session = s.session := rfl
@[simp] theorem setCommand_rx (c : TxnCommand) : (s.setCommand c).rx = s.rx := rfl
@[simp] theorem setCommand_tx (c : TxnCommand) : (s.setCommand c).tx = s.tx := rfl
@[simp] theorem setCommand_arb (c : TxnCommand) : (s.setCommand c).arb = s.arb := rfl
@[simp] theorem setCommand_line (c : TxnCommand) : (s.setCommand c).line = s.line := rfl
@[simp] theorem setCommand_port (c : TxnCommand) : (s.setCommand c).port = s.port.onCommand fun _ => c := rfl
@[simp] theorem setCommand_draws (c : TxnCommand) : (s.setCommand c).draws = s.draws := rfl
@[simp] theorem setCommand_pending (c : TxnCommand) : (s.setCommand c).pending = s.pending := rfl

@[simp] theorem fillStaging_control (l : List Byte) : (s.fillStaging l).control = s.control := rfl
@[simp] theorem fillStaging_session (l : List Byte) : (s.fillStaging l).session = s.session := rfl
@[simp] theorem fillStaging_rx (l : List Byte) : (s.fillStaging l).rx = s.rx := rfl
@[simp] theorem fillStaging_tx (l : List Byte) : (s.fillStaging l).tx = s.tx := rfl
@[simp] theorem fillStaging_arb (l : List Byte) : (s.fillStaging l).arb = s.arb := rfl
@[simp] theorem fillStaging_line (l : List Byte) : (s.fillStaging l).line = s.line := rfl
@[simp] theorem fillStaging_port (l : List Byte) :
    (s.fillStaging l).port =
      { s.port with staging := l.take Config.maxPayload } := rfl
@[simp] theorem fillStaging_draws (l : List Byte) : (s.fillStaging l).draws = s.draws := rfl
@[simp] theorem fillStaging_pending (l : List Byte) : (s.fillStaging l).pending = s.pending := rfl

@[simp] theorem dequeue_control (c : Cls) (i : RxIx) : (s.dequeue c i).control = s.control := rfl
@[simp] theorem dequeue_session (c : Cls) (i : RxIx) : (s.dequeue c i).session = s.session := rfl
@[simp] theorem dequeue_rx (c : Cls) (i : RxIx) :
    (s.dequeue c i).rx =
      { s.rx with queues := alter s.rx.queues c (·.erase i) } := rfl
@[simp] theorem dequeue_tx (c : Cls) (i : RxIx) : (s.dequeue c i).tx = s.tx := rfl
@[simp] theorem dequeue_arb (c : Cls) (i : RxIx) : (s.dequeue c i).arb = s.arb := rfl
@[simp] theorem dequeue_line (c : Cls) (i : RxIx) : (s.dequeue c i).line = s.line := rfl
@[simp] theorem dequeue_port (c : Cls) (i : RxIx) : (s.dequeue c i).port = s.port := rfl
@[simp] theorem dequeue_draws (c : Cls) (i : RxIx) : (s.dequeue c i).draws = s.draws := rfl
@[simp] theorem dequeue_pending (c : Cls) (i : RxIx) : (s.dequeue c i).pending = s.pending := rfl

@[simp] theorem learnPeerTag_control (p : Station) (t : Tag) : (s.learnPeerTag p t).control = s.control := rfl
@[simp] theorem learnPeerTag_session (p : Station) (t : Tag) :
    (s.learnPeerTag p t).session =
      put s.session p { s.entry p with peerTag := t } := rfl
@[simp] theorem learnPeerTag_rx (p : Station) (t : Tag) : (s.learnPeerTag p t).rx = s.rx := rfl
@[simp] theorem learnPeerTag_tx (p : Station) (t : Tag) : (s.learnPeerTag p t).tx = s.tx := rfl
@[simp] theorem learnPeerTag_arb (p : Station) (t : Tag) : (s.learnPeerTag p t).arb = s.arb := rfl
@[simp] theorem learnPeerTag_line (p : Station) (t : Tag) : (s.learnPeerTag p t).line = s.line := rfl
@[simp] theorem learnPeerTag_port (p : Station) (t : Tag) : (s.learnPeerTag p t).port = s.port := rfl
@[simp] theorem learnPeerTag_draws (p : Station) (t : Tag) : (s.learnPeerTag p t).draws = s.draws := rfl
@[simp] theorem learnPeerTag_pending (p : Station) (t : Tag) : (s.learnPeerTag p t).pending = s.pending := rfl

@[simp] theorem applyConfig_control (r : ConfigRecord) :
    (s.applyConfig r).control =
      { s.control with config := some r, station := .configured } := rfl
@[simp] theorem applyConfig_session (r : ConfigRecord) :
    (s.applyConfig r).session =
      if s.own ≠ none ∧ s.own ≠ some r.ownStation then put s.session r.ownStation .reset else s.session := rfl
@[simp] theorem applyConfig_rx (r : ConfigRecord) : (s.applyConfig r).rx = s.rx := rfl
@[simp] theorem applyConfig_tx (r : ConfigRecord) : (s.applyConfig r).tx = s.tx := rfl
@[simp] theorem applyConfig_arb (r : ConfigRecord) : (s.applyConfig r).arb = s.arb := rfl
@[simp] theorem applyConfig_line (r : ConfigRecord) : (s.applyConfig r).line = s.line := rfl
@[simp] theorem applyConfig_port (r : ConfigRecord) : (s.applyConfig r).port = s.port := rfl
@[simp] theorem applyConfig_draws (r : ConfigRecord) : (s.applyConfig r).draws = s.draws := rfl
@[simp] theorem applyConfig_pending (r : ConfigRecord) : (s.applyConfig r).pending = s.pending := rfl

@[simp] theorem afterReset_control (x y : PinLevel) : (s.afterReset x y).control = StationControl.reset := rfl
@[simp] theorem afterReset_session (x y : PinLevel) : (s.afterReset x y).session = sessionReset := rfl
@[simp] theorem afterReset_rx (x y : PinLevel) : (s.afterReset x y).rx = ReceiveUnit.reset := rfl
@[simp] theorem afterReset_tx (x y : PinLevel) : (s.afterReset x y).tx = TransmitUnit.reset := rfl
@[simp] theorem afterReset_arb (x y : PinLevel) : (s.afterReset x y).arb = Arbiter.reset := rfl
@[simp] theorem afterReset_line (x y : PinLevel) : (s.afterReset x y).line = LineUnit.reset := rfl
@[simp] theorem afterReset_port (x y : PinLevel) : (s.afterReset x y).port = { HostPort.reset with cs := y, rst := x } := rfl
@[simp] theorem afterReset_draws (x y : PinLevel) : (s.afterReset x y).draws = s.draws := rfl
@[simp] theorem afterReset_pending (x y : PinLevel) : (s.afterReset x y).pending = s.pending := rfl

@[simp] theorem countDown_control : (s.countDown).control = s.control := rfl
@[simp] theorem countDown_session : (s.countDown).session = mapAll PeerEntry.tick s.session := rfl
@[simp] theorem countDown_rx : (s.countDown).rx = s.rx := rfl
@[simp] theorem countDown_tx : (s.countDown).tx = { s.tx with ackTimers := mapAll Timer.tick s.tx.ackTimers } := rfl
@[simp] theorem countDown_arb : (s.countDown).arb = s.arb := rfl
@[simp] theorem countDown_line : (s.countDown).line = s.line := rfl
@[simp] theorem countDown_port : (s.countDown).port = s.port := rfl
@[simp] theorem countDown_draws : (s.countDown).draws = s.draws := rfl
@[simp] theorem countDown_pending : (s.countDown).pending = s.pending := rfl

/-! ## Accessors -/

@[simp] theorem entry_setEntry_self (p : Station) (e : PeerEntry) : (s.setEntry p e).entry p = e := by
  simp [State.entry]

theorem entry_setEntry (p q : Station) (e : PeerEntry) :
    (s.setEntry p e).entry q = if p = q then e else s.entry q := by
  simp [State.entry, look_put]

/-- The entry read after a change of one place of the peer table. -/
theorem entry_of_put {s t : State} {p : Station} {e : PeerEntry} (h : t.session = put s.session p e) (q : Station) :
    t.entry q = if p = q then e else s.entry q := by
  simp [State.entry, h, look_put]

/-- The entry read where the peer table is unchanged. -/
theorem entry_of_same {s t : State} (h : t.session = s.session) (q : Station) : t.entry q = s.entry q := by
  simp [State.entry, h]

/-- The record in force where Station Control keeps it. -/
theorem record_of_same {s t : State} (h : t.control.config = s.control.config) : t.record = s.record := by
  simp [State.record, h]

end Blocks

/-! ## Timers (R163) -/

@[simp] theorem start_isRunning (v : Nat) : (Timer.start v).isRunning = true := rfl

@[simp] theorem tick_isRunning (t : Timer) : t.tick.isRunning = t.isRunning := by
  cases t with
  | stopped => rfl
  | running n => cases n <;> rfl

@[simp] theorem startIfStopped_isRunning (v : Nat) (t : Timer) : (t.startIfStopped v).isRunning = true := by
  cases t <;> rfl

/-- A stopped timer never becomes due by ticking. -/
theorem due_isRunning {t : Timer} (h : t.due = true) : t.isRunning = true := by
  cases t with
  | stopped => exact absurd h (by decide)
  | running n => rfl

/-- A running timer after `k` ticks. -/
theorem tick_iterate (n k : Nat) : (Timer.tick^[k]) (.running n) = .running (n - k) := by
  induction k generalizing n with
  | zero => rfl
  | succ k ih =>
    rw [Function.iterate_succ_apply]
    cases n with
    | zero => simpa [Timer.tick] using ih 0
    | succ n => simpa [Timer.tick] using ih n

end Sys2Proof.Machine
end

