-- ==== Sys2Proof/Laws/Commands.lean ====
section
/-! SUPPORT. What `exec` answers for each command, one equation per arm; when a host command is taken; and how the port
stands after a command has answered. Later proofs cite these and unfold neither `exec` nor `done`. -/

namespace Sys2Proof.Machine

/-! ## The end of every command -/

/-- Every command ends in a next state, with ATTN driven (R149). -/
theorem done_eq (s : State) : done s = .next s.driveAttn := rfl

/-- Driving ATTN twice is driving it once. -/
@[simp] theorem driveAttn_driveAttn (s : State) : s.driveAttn.driveAttn = s.driveAttn := rfl

/-- ATTN does not count among its own conditions. -/
@[simp] theorem driveAttn_attnLevel (s : State) : s.driveAttn.attnLevel = s.attnLevel := rfl

/-- Where ATTN stands at its level, driving it changes nothing. -/
theorem driveAttn_of_level {s : State} (h : s.port.attn = s.attnLevel) : s.driveAttn = s := by
  have : ({ s.port with attn := s.attnLevel } : HostPort) = s.port := by rw [← h]
  simp only [State.driveAttn, this]

/-! ## The arms of exec -/

section Arms
variable (s : State)

theorem exec_configure (image : ConfigImage) :
    exec (.configure image) s =
      done (s.onCommand (configureEffect image)) := rfl
theorem exec_start : exec .start s = done (s.onCommand startEffect) := rfl
theorem exec_leave : exec .leave s = done (s.onCommand leaveEffect) := rfl
theorem exec_reset : exec .reset s = done (s.onCommand fun t => t.afterReset t.port.rst .high) := rfl
theorem exec_submit (dest : Byte) (cls : Byte) (hostTag : BitVec 16) (length : BitVec 16) (payload : List Byte) :
    exec (.submit dest cls hostTag length payload) s =
      done (s.onCommand (submitEffect dest cls hostTag length payload)) := rfl
theorem exec_cancel (hostTag : BitVec 16) (dest : Byte) :
    exec (.cancel hostTag dest) s =
      done (s.onCommand (cancelEffect hostTag dest)) := rfl
theorem exec_completions (count : Byte) :
    exec (.completions count) s =
      done (s.onCommand (completionsEffect count)) := rfl
theorem exec_completionRecordRead : exec .completionRecordRead s = done (completionRecordReadEffect s) := rfl
theorem exec_take (classByte : Byte) : exec (.take classByte) s = done (s.onCommand (takeEffect classByte)) := rfl
theorem exec_takeComplete : exec .takeComplete s = done (takeCompleteEffect s) := rfl
theorem exec_peek (classByte : Byte) : exec (.peek classByte) s = done (s.onCommand (peekEffect classByte)) := rfl
theorem exec_status : exec .status s = done (s.onCommand statusEffect) := rfl
theorem exec_statusReadClear : exec .statusReadClear s = done (statusReadClearEffect s) := rfl
theorem exec_peers (peerByte : Byte) : exec (.peers peerByte) s = done (s.onCommand (peersEffect peerByte)) := rfl
theorem exec_peersReadClear : exec .peersReadClear s = done (peersReadClearEffect s) := rfl
theorem exec_mask (value : Byte) : exec (.mask value) s = done (s.onCommand (maskEffect value)) := rfl
theorem exec_unknownCommand (code : Byte) :
    exec (.unknownCommand code) s =
      done (s.onCommand fun t => if namesCommand code then t else t.taken .unknown []) := rfl
theorem exec_transactionBegin : exec .transactionBegin s = done (s.beginTransaction) := rfl
theorem exec_transactionEnd : exec .transactionEnd s = done ({ s with port := s.port.endTransaction }) := rfl
theorem exec_resetPin (move : PinMove) : exec (.resetPin move) s = done (resetPinEffect move s) := rfl
theorem exec_powerOn (pins : PinLevels) : exec (.powerOn pins) s = done (s.afterReset pins.rst pins.cs) := rfl
theorem exec_frameBuild : exec .frameBuild s = done (s.selectAndBuild) := rfl
theorem exec_frameWon : exec .frameWon s = done (frameWonEffect s) := rfl
theorem exec_frameLost (cause : LossCause) : exec (.frameLost cause) s = done (frameLostEffect cause s) := rfl
theorem exec_frameCompleted : exec .frameCompleted s = done (frameCompletedEffect s) := rfl
theorem exec_frameAborted : exec .frameAborted s = done (frameAbortedEffect s) := rfl
theorem exec_idleBegun : exec .idleBegun s = done (idleBegunEffect s) := rfl
theorem exec_windowOut : exec .windowOut s = done (windowOutEffect s) := rfl
theorem exec_frameDiscard (cls : DiscardClass) : exec (.frameDiscard cls) s = done (s.frameDiscarded) := rfl
theorem exec_announceReceived (src : Station) (incarnation : Byte) :
    exec (.announceReceived src incarnation) s =
      done (s.frameReceived src (State.handleAnnounce src) id) := rfl
theorem exec_joinReceived (src : Station) (srcTag : Tag) (yourTag : Tag) :
    exec (.joinReceived src srcTag yourTag) s =
      done (s.frameReceived src (State.handleJoin src srcTag yourTag) id) := rfl
theorem exec_severReceived (src : Station) (srcTag : Tag) (dstTag : Tag) (reason : Byte) :
    exec (.severReceived src srcTag dstTag reason) s =
      done (s.frameReceived src (State.handleSever src srcTag dstTag) id) := rfl
theorem exec_tallyReceived (src : Station) (srcTag : Tag) (dstTag : Tag) (pairs : PerClass TallyPair) :
    exec (.tallyReceived src srcTag dstTag pairs) s =
      done (s.frameReceived src (State.handleTally src srcTag dstTag pairs) (·.staleSever src srcTag dstTag)) := rfl
theorem exec_messageReceived (src : Station) (srcTag : Tag) (dstTag : Tag) (cls : Cls) (seq : Count) (payload : List Byte) :
    exec (.messageReceived src srcTag dstTag cls seq payload) s =
      done (if payload.length = 0 ∨ Config.maxPayload < payload.length then s.frameDiscarded
        else s.frameReceived src (State.handleMessage src srcTag dstTag cls seq payload) (·.staleSever src srcTag dstTag)) := rfl
theorem exec_joinTimerExpiry (peer : Station) :
    exec (.joinTimerExpiry peer) s =
      done (joinTimerExpiryEffect peer s) := rfl
theorem exec_holdDownExpiry (peer : Station) :
    exec (.holdDownExpiry peer) s =
      done (holdDownExpiryEffect peer s) := rfl
theorem exec_silenceExpiry (peer : Station) :
    exec (.silenceExpiry peer) s =
      done (silenceExpiryEffect peer s) := rfl
theorem exec_refreshExpiry (peer : Station) :
    exec (.refreshExpiry peer) s =
      done (refreshExpiryEffect peer s) := rfl
theorem exec_ackTimerExpiry (peer : Station) :
    exec (.ackTimerExpiry peer) s =
      done (ackTimerExpiryEffect peer s) := rfl
theorem exec_drained : exec .drained s = done (s.reportDrained) := rfl
theorem exec_frameAddressedToAnotherStation (kind : DirectedKind) (src : Station) :
    exec (.frameAddressedToAnotherStation kind src) s =
      done (s.frameReceived src id id) := rfl
theorem exec_startBitReceived : exec .startBitReceived s = done (s.reading.getD s) := rfl

end Arms

/-! ## Taking a command -/

/-- An open transaction that has taken no command. -/
theorem openTxn_some {s : State} {x : Transaction} (h : s.openTxn = some x) :
    s.port.txn = some x ∧ x.command = .none := by
  simpa [State.openTxn, Option.filter_eq_some_iff] using h

/-- With such a transaction a host command has its effect (R138). -/
theorem onCommand_open {s : State} {x : Transaction} (h : s.openTxn = some x) (f : State → State) :
    s.onCommand f = f s := by
  obtain ⟨a, b⟩ := openTxn_some h
  simp [State.onCommand, State.awaitsCommand, a, b]

/-- Without one it has none (R137, R138). -/
theorem onCommand_closed {s : State} (h : s.openTxn = none) (f : State → State) : s.onCommand f = s := by
  cases hx : s.port.txn with
  | none => simp [State.onCommand, State.awaitsCommand, hx]
  | some x =>
    have : x.command ≠ .none := by
      intro e
      simp [State.openTxn, hx, e, Option.filter] at h
    simp [State.onCommand, State.awaitsCommand, hx, this]

/-- How the port stands once a command is taken, whatever else has changed. -/
theorem answers_taken {s t : State} {x : Transaction} (h : s.port.txn = some x) (c : TxnCommand) (reply : List Byte)
    (ht : t.port = s.port) : Answers x c reply s (t.taken c reply).driveAttn := by
  simp [Answers, PortBecomes, ht, h]

/-- How the port stands once a command's result is decided. -/
theorem ends_decided {s t : State} {x : Transaction} (h : s.port.txn = some x) (r : Result) (ht : t.port = s.port) :
    Ends x r s (t.decided r).driveAttn :=
  answers_taken h (.decided r) [] ht

/-! ## Flags set while a transaction is open (R143, R145, R147) -/

section Since
variable (c : TxnCommand) (f f' : FaultName → Bool) (g g' : Station → Bool)

/-- Nothing set is nothing remembered. -/
@[simp] theorem sinceSet_nothing : c.sinceSet (fun _ => false) (fun _ => false) = c := by
  cases c <;> simp [TxnCommand.sinceSet]

/-- What is set in turn is remembered together. -/
theorem sinceSet_sinceSet :
    (c.sinceSet f g).sinceSet f' g' = c.sinceSet (fun n => f n || f' n) (fun p => g p || g' p) := by
  cases c <;> simp [TxnCommand.sinceSet, Bool.or_assoc]

@[simp] theorem sinceSet_none : TxnCommand.none.sinceSet f g = .none := rfl
@[simp] theorem sinceSet_decided (r : Result) : (TxnCommand.decided r).sinceSet f g = .decided r := rfl

/-- A changed flag's setting, as an open transaction notes it (R147). -/
theorem noteChanged_since (p : Station) : c.noteChanged p = c.sinceSet (fun _ => false) (· = p) := by
  cases c <;> simp [TxnCommand.noteChanged, TxnCommand.sinceSet]

/-- A fault flag's setting, as an open transaction notes it (R145). -/
theorem noteFault_since (n : FaultName) : c.noteFault n = c.sinceSet (· = n) (fun _ => false) := by
  cases c <;> cases n <;> simp [TxnCommand.noteFault, TxnCommand.sinceSet, FaultFlags.set]

end Since

/-- The port of a state whose open transaction has noted `f` and `g`. -/
def HostPort.noted (h : HostPort) (f : FaultName → Bool) (g : Station → Bool) : HostPort :=
  { h with txn := h.txn.map fun x => { x with command := x.command.sinceSet f g } }

theorem noted_nothing (h : HostPort) : h.noted (fun _ => false) (fun _ => false) = h := by
  obtain ⟨_, _, x, _, _, _⟩ := h
  cases x <;> simp [HostPort.noted]

theorem noted_noted (h : HostPort) (f f' : FaultName → Bool) (g g' : Station → Bool) :
    (h.noted f g).noted f' g' = h.noted (fun n => f n || f' n) (fun p => g p || g' p) := by
  simp [HostPort.noted, Function.comp_def, sinceSet_sinceSet]

theorem onCommand_noteChanged (h : HostPort) (p : Station) :
    h.onCommand (.noteChanged p) = h.noted (fun _ => false) (· = p) := by
  simp [HostPort.onCommand, HostPort.noted, noteChanged_since]

theorem onCommand_noteFault (h : HostPort) (n : FaultName) :
    h.onCommand (.noteFault n) = h.noted (· = n) (fun _ => false) := by
  simp [HostPort.onCommand, HostPort.noted, noteFault_since]

/-- A port that has noted what was set is what `PortNotes` says. -/
theorem portNotes_of {s t : State} {f : FaultName → Bool} {g : Station → Bool} (h : t.port = s.port.noted f g) :
    PortNotes f g s t := by simp [PortNotes, PortBecomes, h, HostPort.noted]

end Sys2Proof.Machine
end

