-- ==== Sys2Proof/Laws/Frames.lean ====
section
/-! SUPPORT. How a frame of another station reaches its handler, and what each handler is in each state of the sender's
entry. A statement about a reception cites one lemma for the way in and one for the handler. -/

namespace Sys2Proof.Machine

/-! ## One entry written -/

/-- A table with `p`'s entry replaced has that entry. -/
theorem entry_put {s t : State} {p : Station} {e : PeerEntry} (h : t.session = put s.session p e) : t.entry p = e := by
  simp [State.entry, h]

/-- A table with `p`'s entry replaced keeps every other. -/
theorem othersKeep_put {s t : State} {p : Station} {e : PeerEntry} (h : t.session = put s.session p e) :
    OthersKeep p s t := by
  intro q hq
  simp [State.entry, h, look_put_ne _ _ (Ne.symm hq)]

/-! ## The heard update (R8) -/

section Heard
variable (s : State) (p : Station)

/-- The heard update writes `p`'s entry and nothing else. -/
theorem heard_eq : s.heard p = { s with session := put s.session p (s.heardEntry p) } := by
  simp only [State.heard, State.heardEntry]
  split
  · rfl
  · rw [State.entry, put_look_self]

@[simp] theorem heard_control : (s.heard p).control = s.control := by rw [heard_eq]
@[simp] theorem heard_rx : (s.heard p).rx = s.rx := by rw [heard_eq]
@[simp] theorem heard_tx : (s.heard p).tx = s.tx := by rw [heard_eq]
@[simp] theorem heard_arb : (s.heard p).arb = s.arb := by rw [heard_eq]
@[simp] theorem heard_line : (s.heard p).line = s.line := by rw [heard_eq]
@[simp] theorem heard_port : (s.heard p).port = s.port := by rw [heard_eq]
@[simp] theorem heard_draws : (s.heard p).draws = s.draws := by rw [heard_eq]
@[simp] theorem heard_pending : (s.heard p).pending = s.pending := by rw [heard_eq]
@[simp] theorem heard_session : (s.heard p).session = put s.session p (s.heardEntry p) := by rw [heard_eq]
@[simp] theorem heard_record : (s.heard p).record = s.record := by simp [State.record]
@[simp] theorem heard_own : (s.heard p).own = s.own := by simp [State.own]
@[simp] theorem heard_entry : (s.heard p).entry p = s.heardEntry p := entry_put (heard_session s p)
@[simp] theorem heardEntry_state : (s.heardEntry p).state = (s.entry p).state := by
  unfold State.heardEntry; split <;> simp_all
@[simp] theorem heardEntry_ownTag : (s.heardEntry p).ownTag = (s.entry p).ownTag := by
  unfold State.heardEntry; split <;> simp_all
@[simp] theorem heardEntry_peerTag : (s.heardEntry p).peerTag = (s.entry p).peerTag := by
  unfold State.heardEntry; split <;> simp_all

/-- Outside OPEN the heard update changes nothing. -/
theorem heard_of_not_open (h : (s.entry p).state ≠ .opened) : s.heard p = s := by simp [State.heard, h]

end Heard

/-! ## The way in -/

/-- The state in which a good frame of peer `p` meets its handler while ACTIVE: the gap is read, and `p` has been heard. -/
def State.afterFrame (s : State) (p : Station) : State := (s.setLine (.receiving .gap)).heard p

section AfterFrame
variable (s : State) (p : Station)

@[simp] theorem afterFrame_session : (s.afterFrame p).session = put s.session p (s.heardEntry p) :=
  heard_session (s.setLine (.receiving .gap)) p
@[simp] theorem afterFrame_control : (s.afterFrame p).control = s.control := by simp [State.afterFrame]
@[simp] theorem afterFrame_rx : (s.afterFrame p).rx = s.rx := by simp [State.afterFrame]
@[simp] theorem afterFrame_tx : (s.afterFrame p).tx = s.tx := by simp [State.afterFrame]
@[simp] theorem afterFrame_arb : (s.afterFrame p).arb = s.arb := by simp [State.afterFrame]
@[simp] theorem afterFrame_line : (s.afterFrame p).line = { s.line with state := .receiving .gap } := by
  simp [State.afterFrame]
@[simp] theorem afterFrame_port : (s.afterFrame p).port = s.port := by simp [State.afterFrame]
@[simp] theorem afterFrame_draws : (s.afterFrame p).draws = s.draws := by simp [State.afterFrame]
@[simp] theorem afterFrame_pending : (s.afterFrame p).pending = s.pending := by simp [State.afterFrame]
@[simp] theorem afterFrame_record : (s.afterFrame p).record = s.record := by simp [State.record]
@[simp] theorem afterFrame_own : (s.afterFrame p).own = s.own := by simp [State.own]
@[simp] theorem afterFrame_entry : (s.afterFrame p).entry p = s.heardEntry p := entry_put (afterFrame_session s p)
theorem afterFrame_entry_ne {p q : Station} (h : q ≠ p) : (s.afterFrame p).entry q = s.entry q :=
  othersKeep_put (afterFrame_session s p) q h

/-- Outside OPEN only the line has changed. -/
theorem afterFrame_of_not_open (h : (s.entry p).state ≠ .opened) : s.afterFrame p = s.setLine (.receiving .gap) :=
  heard_of_not_open (s.setLine (.receiving .gap)) p h

end AfterFrame

/-- While ACTIVE a good frame of a peer is handed on after the heard update (R8). -/
theorem frameReceived_active {s : State} {p : Station} (h : Hears p s) (active leaving : State → State) :
    s.frameReceived p active leaving = active (s.afterFrame p) := by
  obtain ⟨h1, h2, h3⟩ := h
  have h4 : (s.setLine (.receiving .gap)).own ≠ some p := h3
  simp [State.frameReceived, State.reading, h2, h4, h1, State.afterFrame]

/-- While LEAVING it is handed on without one (R7). -/
theorem frameReceived_leaving {s : State} {p : Station} (h1 : s.control.station = .leaving)
    (h2 : s.line.state = .receiving .frame) (h3 : s.own ≠ some p) (active leaving : State → State) :
    s.frameReceived p active leaving = leaving (s.setLine (.receiving .gap)) := by
  have h4 : (s.setLine (.receiving .gap)).own ≠ some p := h3
  simp [State.frameReceived, State.reading, h2, h4, h1]

/-- One that bears the own number is a duplicate station's (R134). -/
theorem frameReceived_own {s : State} {p : Station} (h1 : s.line.state = .receiving .frame) (h2 : s.own = some p)
    (active leaving : State → State) :
    s.frameReceived p active leaving = (s.setLine (.receiving .gap)).reportFault .duplicateStation := by
  have h4 : (s.setLine (.receiving .gap)).own = some p := h2
  simp [State.frameReceived, State.reading, h1, h4]

/-- Where the line assembles nothing a frame has no effect (R124, R125, R132). -/
theorem frameReceived_deaf {s : State} (h : s.reading = none) (p : Station) (active leaving : State → State) :
    s.frameReceived p active leaving = s := by simp [State.frameReceived, h]

/-! ## Matching (R5) -/

theorem matchesTags_iff (e : PeerEntry) (a b : Tag) :
    e.matchesTags a b = true ↔ e.ownTag ≠ 0 ∧ e.peerTag ≠ 0 ∧ a = e.peerTag ∧ b = e.ownTag := by
  simp [PeerEntry.matchesTags]

/-- The heard update does not bear on matching. -/
@[simp] theorem heardEntry_matchesTags (s : State) (p : Station) (a b : Tag) :
    (s.heardEntry p).matchesTags a b = (s.entry p).matchesTags a b := by
  simp [PeerEntry.matchesTags]

@[simp] theorem heardEntry_returnedBy (s : State) (p : Station) (a : Tag) :
    (s.heardEntry p).returnedBy a = (s.entry p).returnedBy a := by
  simp [PeerEntry.returnedBy]

/-- A payload of 1 to 500 bytes is none that R132 discards. -/
theorem payload_in_range {payload : List Byte} (h1 : 1 ≤ payload.length) (h2 : payload.length ≤ 500) :
    ¬(payload.length = 0 ∨ Config.maxPayload < payload.length) := by
  simp only [Config.maxPayload]; omega

/-! ## The handlers -/

section Handlers
variable {s : State} {p : Station} {a b : Tag}

/-- A TALLY of no session of an entry in JOINING or OPEN is stale (R20 to R22). -/
theorem handleTally_stale (pairs : PerClass TallyPair)
    (h : (s.entry p).matchesTags a b = false ∨ (s.entry p).state = .absent ∨ (s.entry p).state = .lost) :
    s.handleTally p a b pairs = s.staleSever p a b := by
  unfold State.handleTally
  obtain h | h | h := h <;> simp [h]

theorem handleTally_opened (pairs : PerClass TallyPair) (h : (s.entry p).matchesTags a b = true)
    (ho : (s.entry p).state = .opened) : s.handleTally p a b pairs = s.processTally p pairs := by
  simp [State.handleTally, h, ho]

theorem handleTally_joining (pairs : PerClass TallyPair) (h : (s.entry p).matchesTags a b = true)
    (ho : (s.entry p).state = .joining) : s.handleTally p a b pairs = (s.openSession p).processTally p pairs := by
  simp [State.handleTally, h, ho]

/-- A MESSAGE of no session of an entry in JOINING or OPEN is stale (R20 to R22). -/
theorem handleMessage_stale (c : Cls) (seq : Count) (payload : List Byte)
    (h : (s.entry p).matchesTags a b = false ∨ (s.entry p).state = .absent ∨ (s.entry p).state = .lost) :
    s.handleMessage p a b c seq payload = s.staleSever p a b := by
  unfold State.handleMessage
  obtain h | h | h := h <;> simp [h]

theorem handleMessage_opened (c : Cls) (seq : Count) (payload : List Byte) (h : (s.entry p).matchesTags a b = true)
    (ho : (s.entry p).state = .opened) : s.handleMessage p a b c seq payload = s.receiveMessage p c seq payload := by
  simp [State.handleMessage, h, ho]

theorem handleMessage_joining (c : Cls) (seq : Count) (payload : List Byte) (h : (s.entry p).matchesTags a b = true)
    (ho : (s.entry p).state = .joining) : s.handleMessage p a b c seq payload = s := by
  simp [State.handleMessage, h, ho]

/-- A matching SEVER closes a JOINING or OPEN entry (R23). -/
theorem handleSever_match (h : (s.entry p).matchesTags a b = true)
    (ho : (s.entry p).state = .joining ∨ (s.entry p).state = .opened) :
    s.handleSever p a b = s.closeSession .severed p := by
  simp [State.handleSever, h, ho]

theorem handleSever_other
    (h : (s.entry p).matchesTags a b = false ∨ (s.entry p).state = .absent ∨ (s.entry p).state = .lost) :
    s.handleSever p a b = s := by
  unfold State.handleSever
  obtain h | h | h := h <;> simp [h]

/-- What a stale frame's tags come to: no match, or an entry without a session. -/
theorem not_session (h : (s.entry p).state = .absent ∨ (s.entry p).state = .lost ∨ (s.entry p).ownTag = 0 ∨
      (s.entry p).peerTag = 0 ∨ a ≠ (s.entry p).peerTag ∨ b ≠ (s.entry p).ownTag) :
    (s.entry p).matchesTags a b = false ∨ (s.entry p).state = .absent ∨ (s.entry p).state = .lost := by
  by_cases hm : (s.entry p).matchesTags a b = true
  · rw [matchesTags_iff] at hm; tauto
  · left; simpa using hm

theorem handleAnnounce_opened (h : (s.entry p).state = .opened) : s.handleAnnounce p = s.restartSession p 0 := by
  simp [State.handleAnnounce, h]

theorem handleAnnounce_other (h : (s.entry p).state ≠ .opened) : s.handleAnnounce p = s.freshJoining p 0 := by
  unfold State.handleAnnounce
  cases hs : (s.entry p).state <;> simp_all

theorem handleJoin_ignored (h : (s.entry p).state = .lost ∨ a = 0) : s.handleJoin p a b = s := by
  unfold State.handleJoin
  obtain h | h := h <;> simp [h]

theorem handleJoin_absent (h : (s.entry p).state = .absent) (ha : a ≠ 0) : s.handleJoin p a b = s.freshJoining p a := by
  unfold State.handleJoin; rw [if_neg ha, h]

theorem handleJoin_returned (h : (s.entry p).state = .joining) (ha : a ≠ 0) (hb : (s.entry p).returnedBy b = true) :
    s.handleJoin p a b = (s.learnPeerTag p a).openSession p := by
  unfold State.handleJoin; rw [if_neg ha, h]; simp [hb]

theorem handleJoin_answered (h : (s.entry p).state = .joining) (ha : a ≠ 0) (hb : (s.entry p).returnedBy b = false) :
    s.handleJoin p a b = (s.learnPeerTag p a).claimJoin p := by
  unfold State.handleJoin; rw [if_neg ha, h]; simp [hb]

theorem handleJoin_known (h : (s.entry p).state = .opened) (ha : a ≠ 0) (hb : a = (s.entry p).peerTag) :
    s.handleJoin p a b = s.claimTally p := by
  unfold State.handleJoin; rw [if_neg ha, h]; simp [hb]

theorem handleJoin_new (h : (s.entry p).state = .opened) (ha : a ≠ 0) (hb : a ≠ (s.entry p).peerTag) :
    s.handleJoin p a b = s.restartSession p a := by
  unfold State.handleJoin; rw [if_neg ha, h]; simp [hb]

end Handlers

/-! ## A MESSAGE on an OPEN session (R39 to R42) -/

theorem receiveMessage_accepted {s : State} {p : Station} {c : Cls} {seq : Count} {i : RxIx} (payload : List Byte)
    (hq : seq = (look2 s.rx.records p c).accepted) (hr : 0 < (look2 s.rx.records p c).reserved)
    (hi : findIx (RxSlot.isReserved p c) s.rx.pool = some i) :
    s.receiveMessage p c seq payload =
      { s with
        rx :=
          { s.rx with
            pool := put s.rx.pool i (.occupied ⟨p, c, payload.length, payload⟩)
            records := put2 s.rx.records p c
              ⟨(look2 s.rx.records p c).accepted + 1, (look2 s.rx.records p c).limit,
                (look2 s.rx.records p c).reserved - 1, (look2 s.rx.records p c).occupied + 1⟩
            queues := put s.rx.queues c (look s.rx.queues c ++ [i]) } }.claimTally p := by
  simp [State.receiveMessage, ReceiveUnit.accept, hq, hr, hi, alter]

theorem receiveMessage_overrun {s : State} {p : Station} {c : Cls} {seq : Count} (payload : List Byte)
    (hq : seq = (look2 s.rx.records p c).accepted) (hr : (look2 s.rx.records p c).reserved = 0) :
    s.receiveMessage p c seq payload = (s.setFault .creditOverrun).claimTally p := by
  simp [State.receiveMessage, hq, hr]

theorem receiveMessage_other {s : State} {p : Station} {c : Cls} {seq : Count} (payload : List Byte)
    (hq : seq ≠ (look2 s.rx.records p c).accepted) : s.receiveMessage p c seq payload = s.claimTally p := by
  simp [State.receiveMessage, hq]

end Sys2Proof.Machine
end

