-- ==== Sys2Proof/Laws/Transmit.lean ====
section
/-! SUPPORT. What each shared operation of the Transmit Unit does, said once: changing and finishing slots (R69, R77), the
send side of a close (R105 to R107), a TALLY (R96 to R99) and the ack timer (R102). -/

namespace Sys2Proof.Machine

/-! ## One slot changed -/

/-- A slot's record changed by `f`; a FREE slot stays FREE. -/
def TxSlot.change (f : TxRecord → TxRecord) : TxSlot → TxSlot
  | .held r => .held (f r)
  | .free => .free

@[simp] theorem change_held (f : TxRecord → TxRecord) (r : TxRecord) : (TxSlot.held r).change f = .held (f r) := rfl
@[simp] theorem change_free (f : TxRecord → TxRecord) : TxSlot.free.change f = .free := rfl

section Slot
variable (tx : TransmitUnit) (i : TxIx)

theorem slot_iff (r : TxRecord) : tx.slot i = some r ↔ look tx.pool i = .held r := by
  simp only [TransmitUnit.slot]
  cases look tx.pool i <;> simp

/-- Changing a slot writes the pool and nothing else. -/
theorem changeSlot_eq (f : TxRecord → TxRecord) :
    tx.changeSlot i f = { tx with pool := put tx.pool i ((look tx.pool i).change f) } := by
  simp only [TransmitUnit.changeSlot]
  cases h : look tx.pool i with
  | held r => rfl
  | free =>
    simp only [change_free]
    rw [← h, put_look_self]

variable (f : TxRecord → TxRecord)

@[simp] theorem changeSlot_pool : (tx.changeSlot i f).pool = put tx.pool i ((look tx.pool i).change f) := by
  rw [changeSlot_eq]
@[simp] theorem changeSlot_queues : (tx.changeSlot i f).queues = tx.queues := by rw [changeSlot_eq]
@[simp] theorem changeSlot_flights : (tx.changeSlot i f).flights = tx.flights := by rw [changeSlot_eq]
@[simp] theorem changeSlot_counters : (tx.changeSlot i f).counters = tx.counters := by rw [changeSlot_eq]
@[simp] theorem changeSlot_ackTimers : (tx.changeSlot i f).ackTimers = tx.ackTimers := by rw [changeSlot_eq]
@[simp] theorem changeSlot_retries : (tx.changeSlot i f).retries = tx.retries := by rw [changeSlot_eq]
@[simp] theorem changeSlot_completions : (tx.changeSlot i f).completions = tx.completions := by rw [changeSlot_eq]
@[simp] theorem changeSlot_sending : (tx.changeSlot i f).sending = tx.sending := by rw [changeSlot_eq]
@[simp] theorem changeSlot_tie : (tx.changeSlot i f).tie = tx.tie := by rw [changeSlot_eq]
@[simp] theorem changeSlot_nextOrder : (tx.changeSlot i f).nextOrder = tx.nextOrder := by rw [changeSlot_eq]

end Slot

/-- Whom a message is for is not changed by a change that keeps destination and class. -/
theorem isFor_of_change {tx u : TransmitUnit} {i : TxIx} {f : TxRecord → TxRecord}
    (hf : ∀ r : TxRecord, (f r).destination = r.destination ∧ (f r).cls = r.cls)
    (h : look u.pool i = look tx.pool i ∨ look u.pool i = (look tx.pool i).change f) (p : Station) (c : Cls) :
    u.isFor p c i = tx.isFor p c i := by
  simp only [TransmitUnit.isFor, TransmitUnit.slot]
  obtain h | h := h <;> rw [h]
  cases look tx.pool i with
  | free => rfl
  | held r => simp [hf r]

/-- The sending slot destined for `p` in class `c`. -/
theorem sendingFor_eq (tx : TransmitUnit) (p : Station) (c : Cls) :
    tx.sendingFor p c = tx.sending.filter (tx.isFor p c) := by
  simp only [TransmitUnit.sendingFor]
  congr 1
  funext i
  simp only [TransmitUnit.isFor]
  cases tx.slot i <;> simp

/-! ## Slots finished (R69, R77) -/

section FinishAll
variable (status : CompletionStatus) (reason : CloseReason)

@[simp] theorem finished_finished (r : TxRecord) :
    (r.finished status reason).finished status reason = r.finished status reason := rfl

/-- The slots given are DONE and stand at the tail of the completion queue in that order; nothing else changes. -/
theorem finishAll_spec (tx : TransmitUnit) (is : List TxIx) :
    (tx.finishAll status reason is).completions = tx.completions ++ is ∧
    (∀ i : TxIx, look (tx.finishAll status reason is).pool i =
      if i ∈ is then (look tx.pool i).change (.finished status reason) else look tx.pool i) ∧
    tx.finishAll status reason is =
      { tx with
        pool := (tx.finishAll status reason is).pool
        completions := (tx.finishAll status reason is).completions } := by
  induction is generalizing tx with
  | nil => simp [TransmitUnit.finishAll]
  | cons j is ih =>
    obtain ⟨h1, h2, h3⟩ := ih (TransmitUnit.finish status reason tx j)
    have e : tx.finishAll status reason (j :: is) = (TransmitUnit.finish status reason tx j).finishAll status reason is := rfl
    rw [e]
    refine ⟨by rw [h1]; simp [TransmitUnit.finish], ?_, ?_⟩
    · intro i
      rw [h2]
      simp only [TransmitUnit.finish, changeSlot_pool, look_put, List.mem_cons]
      by_cases hij : j = i
      · subst hij
        cases look tx.pool j <;> simp
      · simp [hij, Ne.symm hij]
    · rw [h3]
      simp [TransmitUnit.finish]

variable (tx : TransmitUnit) (is : List TxIx)

@[simp] theorem finishAll_completions : (tx.finishAll status reason is).completions = tx.completions ++ is :=
  (finishAll_spec status reason tx is).1
theorem look_finishAll (i : TxIx) :
    look (tx.finishAll status reason is).pool i =
      if i ∈ is then (look tx.pool i).change (.finished status reason) else look tx.pool i :=
  (finishAll_spec status reason tx is).2.1 i
@[simp] theorem finishAll_queues : (tx.finishAll status reason is).queues = tx.queues := by
  rw [(finishAll_spec status reason tx is).2.2]
@[simp] theorem finishAll_flights : (tx.finishAll status reason is).flights = tx.flights := by
  rw [(finishAll_spec status reason tx is).2.2]
@[simp] theorem finishAll_counters : (tx.finishAll status reason is).counters = tx.counters := by
  rw [(finishAll_spec status reason tx is).2.2]
@[simp] theorem finishAll_ackTimers : (tx.finishAll status reason is).ackTimers = tx.ackTimers := by
  rw [(finishAll_spec status reason tx is).2.2]
@[simp] theorem finishAll_retries : (tx.finishAll status reason is).retries = tx.retries := by
  rw [(finishAll_spec status reason tx is).2.2]
@[simp] theorem finishAll_sending : (tx.finishAll status reason is).sending = tx.sending := by
  rw [(finishAll_spec status reason tx is).2.2]
@[simp] theorem finishAll_tie : (tx.finishAll status reason is).tie = tx.tie := by
  rw [(finishAll_spec status reason tx is).2.2]
@[simp] theorem finishAll_nextOrder : (tx.finishAll status reason is).nextOrder = tx.nextOrder := by
  rw [(finishAll_spec status reason tx is).2.2]

theorem isFor_finishAll (p : Station) (c : Cls) (i : TxIx) :
    (tx.finishAll status reason is).isFor p c i = tx.isFor p c i := by
  apply isFor_of_change (f := .finished status reason) (fun r => ⟨rfl, rfl⟩)
  rw [look_finishAll]
  by_cases h : i ∈ is <;> simp [h]

end FinishAll

/-! ## A close other than RESTART (R105) -/

/-- The slots one class of such a close completes, in the order of R105. -/
def TransmitUnit.doomedIn (tx : TransmitUnit) (p : Station) (c : Cls) : List TxIx :=
  look2 tx.flights p c ++ (tx.sending.filter (tx.isFor p c)).toList ++ look2 tx.queues p c

/-- The sending slot with those that are for `p` in a class of `cs` taken out. -/
theorem sending_without {o : Option TxIx} {f : TxIx → Bool} :
    (if (o.filter f).isSome then none else o) = o.filter fun i => !f i := by
  cases o with
  | none => simp
  | some i => cases h : f i <;> simp [Option.filter, h]

/-- A class dropped: its slots are finished, its lists empty. -/
theorem dropClass_eq (p : Station) (reason : CloseReason) (tx : TransmitUnit) (c : Cls) :
    tx.dropClass p reason c =
      { tx.finishAll .dropped reason (tx.doomedIn p c) with
        flights := put2 tx.flights p c []
        queues := put2 tx.queues p c []
        sending := tx.sending.filter fun i => !tx.isFor p c i } := by
  simp only [TransmitUnit.dropClass, sendingFor_eq, sending_without, TransmitUnit.doomedIn]

/-- The classes of `cs`, each once, dropped in turn. -/
theorem dropClasses_spec (p : Station) (reason : CloseReason) (cs : List Cls) (hn : cs.Nodup) (tx : TransmitUnit) :
    let t := cs.foldl (TransmitUnit.dropClass p reason) tx
    t.completions = tx.completions ++ cs.flatMap (tx.doomedIn p) ∧
    (∀ i : TxIx, look t.pool i =
      if i ∈ cs.flatMap (tx.doomedIn p) then (look tx.pool i).change (.finished .dropped reason)
      else look tx.pool i) ∧
    (∀ (q : Station) (c : Cls),
      look2 t.flights q c = (if q = p ∧ c ∈ cs then [] else look2 tx.flights q c) ∧
      look2 t.queues q c = (if q = p ∧ c ∈ cs then [] else look2 tx.queues q c)) ∧
    t.sending = tx.sending.filter (fun i => !cs.any fun c => tx.isFor p c i) ∧
    t.counters = tx.counters ∧ t.ackTimers = tx.ackTimers ∧ t.retries = tx.retries ∧ t.tie = tx.tie ∧
    t.nextOrder = tx.nextOrder := by
  induction cs generalizing tx with
  | nil => cases h : tx.sending <;> simp [h, Option.filter]
  | cons d cs ih =>
    obtain ⟨hd, hn⟩ := List.nodup_cons.mp hn
    let u := tx.dropClass p reason d
    have hu : u = tx.dropClass p reason d := rfl
    rw [dropClass_eq] at hu
    have hfor : ∀ (c : Cls) (i : TxIx), u.isFor p c i = tx.isFor p c i := by
      intro c i
      rw [hu]
      exact isFor_finishAll .dropped reason tx _ p c i
    have hdoom : ∀ c ∈ cs, u.doomedIn p c = tx.doomedIn p c := by
      intro c hc
      have hcd : c ≠ d := fun e => hd (e ▸ hc)
      have e1 : u.isFor p c = tx.isFor p c := funext (hfor c)
      have e2 : look2 u.flights p c = look2 tx.flights p c := by rw [hu]; simp [look2_put2, Ne.symm hcd]
      have e3 : look2 u.queues p c = look2 tx.queues p c := by rw [hu]; simp [look2_put2, Ne.symm hcd]
      have e4 : u.sending.filter (tx.isFor p c) = tx.sending.filter (tx.isFor p c) := by
        rw [hu]
        cases hs : tx.sending with
        | none => rfl
        | some i =>
          cases h1 : tx.isFor p c i with
          | false => cases h2 : tx.isFor p d i <;> simp [Option.filter, h1, h2]
          | true =>
            have : tx.isFor p d i = false := by
              simp only [TransmitUnit.isFor] at h1 ⊢
              cases hr : tx.slot i with
              | none => rfl
              | some r =>
                simp only [hr, Option.any_some, Bool.and_eq_true, decide_eq_true_eq] at h1
                simp [h1.2, hcd]
            simp [Option.filter, this]
      simp only [TransmitUnit.doomedIn, e1, e2, e3, e4]
    have hflat : cs.flatMap (u.doomedIn p) = cs.flatMap (tx.doomedIn p) := by
      rw [List.flatMap, List.flatMap, List.map_congr_left hdoom]
    obtain ⟨h1, h2, h3, h4, h5, h6, h7, h8, h9⟩ := ih hn u
    simp only [List.foldl_cons]
    have hfold : cs.foldl (TransmitUnit.dropClass p reason) (tx.dropClass p reason d) =
        cs.foldl (TransmitUnit.dropClass p reason) u := rfl
    rw [hfold]
    refine ⟨?_, ?_, ?_, ?_, ?_, ?_, ?_, ?_, ?_⟩
    · rw [h1, hflat, hu]; simp
    · intro i
      rw [h2, hflat]
      have hp : look u.pool i =
          if i ∈ tx.doomedIn p d then (look tx.pool i).change (.finished .dropped reason) else look tx.pool i := by
        rw [hu]; exact look_finishAll _ _ _ _ _
      rw [hp]
      simp only [List.flatMap_cons, List.mem_append]
      by_cases ha : i ∈ tx.doomedIn p d <;> by_cases hb : i ∈ cs.flatMap (tx.doomedIn p) <;> simp only [ha, hb, if_true,
        if_false, or_self, or_true, true_or]
      cases look tx.pool i <;> simp
    · intro q c
      obtain ⟨a, b⟩ := h3 q c
      rw [a, b, hu]
      by_cases hq : q = p
      · subst hq
        by_cases hc : c = d
        · subst hc; simp [hd]
        · simp [hc, look2_put2, Ne.symm hc]
      · simp [hq, look2_put2, Ne.symm hq]
    · have hs : u.sending = tx.sending.filter fun i => !tx.isFor p d i := by rw [hu]
      rw [h4, hs]
      simp only [hfor]
      cases tx.sending with
      | none => rfl
      | some i => cases h : tx.isFor p d i <;> simp [Option.filter, h]
    · rw [h5, hu]; simp
    · rw [h6, hu]; simp
    · rw [h7, hu]; simp
    · rw [h8, hu]; simp
    · rw [h9, hu]; simp

/-- A message is for one class only. -/
theorem isFor_class {tx : TransmitUnit} {p : Station} {c d : Cls} {i : TxIx} (h : tx.isFor p c i = true) (hcd : c ≠ d) :
    tx.isFor p d i = false := by
  simp only [TransmitUnit.isFor] at h ⊢
  cases hr : tx.slot i with
  | none => rfl
  | some r =>
    simp only [hr, Option.any_some, Bool.and_eq_true, decide_eq_true_eq] at h
    simp [h.2, hcd]

/-! ## A RESTART close (R107) -/

/-- The record of a slot returned to its queue (R107, step 2). -/
def TxRecord.requeued (r : TxRecord) : TxRecord := { r with state := .queued, transmitCount := 0 }

/-- A class restarted, where the sending slot is not in flight in it. -/
theorem restartClass_eq (p : Station) (tx : TransmitUnit) (c : Cls) :
    TransmitUnit.restartClass p tx c =
      { tx.finishAll .dropped .restart (look2 tx.flights p c) with
        pool :=
          match tx.sending.filter (tx.isFor p c) with
          | some i => put (tx.finishAll .dropped .restart (look2 tx.flights p c)).pool i
              ((look (tx.finishAll .dropped .restart (look2 tx.flights p c)).pool i).change .requeued)
          | none => (tx.finishAll .dropped .restart (look2 tx.flights p c)).pool
        flights := put2 tx.flights p c []
        queues := put2 tx.queues p c ((tx.sending.filter (tx.isFor p c)).toList ++ look2 tx.queues p c)
        sending := tx.sending.filter fun i => !tx.isFor p c i } := by
  have hq : put2 tx.queues p c (look2 tx.queues p c) = tx.queues := by
    simp only [put2, look2, put_look_self]
  simp only [TransmitUnit.restartClass, sendingFor_eq]
  cases hs : tx.sending with
  | none => simp [Option.filter, hq, hs]
  | some i =>
    cases h : tx.isFor p c i with
    | false => simp [Option.filter, h, hq, hs]
    | true =>
      simp only [Option.filter, h, if_true, TransmitUnit.returnSending, finishAll_queues]
      simp
      rfl

/-- The classes of `cs`, each once, restarted in turn, where the sending slot is in flight in none of them. -/
theorem restartClasses_spec (p : Station) (cs : List Cls) (hn : cs.Nodup) (tx : TransmitUnit)
    (hs : ∀ i ∈ tx.sending, ∀ c ∈ cs, i ∉ look2 tx.flights p c) :
    let t := cs.foldl (TransmitUnit.restartClass p) tx
    t.completions = tx.completions ++ cs.flatMap (look2 tx.flights p) ∧
    (∀ i : TxIx, look t.pool i =
      if i ∈ cs.flatMap (look2 tx.flights p) then (look tx.pool i).change (.finished .dropped .restart)
      else if tx.sending = some i ∧ (cs.any fun c => tx.isFor p c i) = true then (look tx.pool i).change .requeued
      else look tx.pool i) ∧
    (∀ (q : Station) (c : Cls),
      look2 t.flights q c = (if q = p ∧ c ∈ cs then [] else look2 tx.flights q c) ∧
      look2 t.queues q c =
        if q = p ∧ c ∈ cs then (tx.sending.filter (tx.isFor p c)).toList ++ look2 tx.queues p c
        else look2 tx.queues q c) ∧
    t.sending = tx.sending.filter (fun i => !cs.any fun c => tx.isFor p c i) ∧
    t.counters = tx.counters ∧ t.ackTimers = tx.ackTimers ∧ t.retries = tx.retries ∧ t.tie = tx.tie ∧
    t.nextOrder = tx.nextOrder := by
  induction cs generalizing tx with
  | nil => cases h : tx.sending <;> simp [h, Option.filter]
  | cons d cs ih =>
    obtain ⟨hd, hn⟩ := List.nodup_cons.mp hn
    let u := TransmitUnit.restartClass p tx d
    have hu : u = TransmitUnit.restartClass p tx d := rfl
    rw [restartClass_eq] at hu
    have hpool : ∀ i : TxIx, look u.pool i =
        if i ∈ look2 tx.flights p d then (look tx.pool i).change (.finished .dropped .restart)
        else if tx.sending = some i ∧ tx.isFor p d i = true then (look tx.pool i).change .requeued
        else look tx.pool i := by
      intro i
      rw [hu]
      cases hse : tx.sending with
      | none => simp [Option.filter, look_finishAll]
      | some j =>
        have hj : j ∉ look2 tx.flights p d := hs j hse d (by simp)
        cases hf : tx.isFor p d j with
        | false =>
          simp only [Option.filter, hf]
          by_cases hij : j = i
          · subst hij; simp [hj, hf, look_finishAll]
          · simp [hij, look_finishAll]
        | true =>
          simp only [Option.filter, hf, if_true, look_put, look_finishAll]
          by_cases hij : j = i
          · subst hij; simp [hj, hf]
          · simp [hij]
    have hfor : ∀ (c : Cls) (i : TxIx), u.isFor p c i = tx.isFor p c i := by
      intro c i
      have hi := hpool i
      split at hi
      · exact isFor_of_change (f := .finished .dropped .restart) (fun r => ⟨rfl, rfl⟩) (.inr hi) p c
      · split at hi
        · exact isFor_of_change (f := .requeued) (fun r => ⟨rfl, rfl⟩) (.inr hi) p c
        · exact isFor_of_change (f := .requeued) (fun r => ⟨rfl, rfl⟩) (.inl hi) p c
    have hsend : u.sending = tx.sending.filter fun i => !tx.isFor p d i := by rw [hu]
    have hfl : ∀ c ∈ cs, look2 u.flights p c = look2 tx.flights p c := by
      intro c hc
      have hcd : c ≠ d := fun e => hd (e ▸ hc)
      rw [hu]; simp [look2_put2, Ne.symm hcd]
    have hflat : cs.flatMap (look2 u.flights p) = cs.flatMap (look2 tx.flights p) := by
      rw [List.flatMap, List.flatMap, List.map_congr_left hfl]
    have hfilter : ∀ c ∈ cs, u.sending.filter (tx.isFor p c) = tx.sending.filter (tx.isFor p c) := by
      intro c hc
      have hcd : c ≠ d := fun e => hd (e ▸ hc)
      rw [hsend]
      cases tx.sending with
      | none => rfl
      | some i =>
        cases h1 : tx.isFor p c i with
        | false => cases h2 : tx.isFor p d i <;> simp [Option.filter, h1, h2]
        | true => simp [Option.filter, isFor_class h1 hcd, h1]
    have hs' : ∀ i ∈ u.sending, ∀ c ∈ cs, i ∉ look2 u.flights p c := by
      intro i hi c hc
      rw [hfl c hc]
      rw [hsend] at hi
      exact hs i (Option.filter_eq_some_iff.mp hi).1 c (by simp [hc])
    obtain ⟨h1, h2, h3, h4, h5, h6, h7, h8, h9⟩ := ih hn u hs'
    simp only [List.foldl_cons]
    have hfold : cs.foldl (TransmitUnit.restartClass p) (TransmitUnit.restartClass p tx d) =
        cs.foldl (TransmitUnit.restartClass p) u := rfl
    rw [hfold]
    refine ⟨?_, ?_, ?_, ?_, ?_, ?_, ?_, ?_, ?_⟩
    · rw [h1, hflat, hu]; simp
    · intro i
      rw [h2, hpool, hflat, hsend]
      simp only [List.flatMap_cons, List.mem_append, hfor, List.any_cons]
      by_cases ha : i ∈ look2 tx.flights p d <;> by_cases hb : i ∈ cs.flatMap (look2 tx.flights p)
      · simp only [ha, hb, if_true, or_self]
        cases look tx.pool i <;> rfl
      · have : tx.sending ≠ some i := fun e => hs i e d (by simp) ha
        have h' : (tx.sending.filter fun i => !tx.isFor p d i) ≠ some i :=
          fun e => this (Option.filter_eq_some_iff.mp e).1
        simp [ha, hb, h']
      · have hb' : tx.sending ≠ some i := by
          intro e
          obtain ⟨c, hc, hi⟩ := List.mem_flatMap.mp hb
          exact hs i e c (by simp [hc]) hi
        simp [ha, hb, hb']
      · simp only [ha, hb, if_false, or_self]
        cases hse : tx.sending with
        | none => simp
        | some j =>
          by_cases hij : j = i
          · subst hij
            by_cases hf : tx.isFor p d j = true <;> simp [Option.filter, hf]
          · cases hf : tx.isFor p d j <;> simp [Option.filter, hij, hf]
    · intro q c
      obtain ⟨a, b⟩ := h3 q c
      rw [a, b]
      by_cases hq : q = p
      · subst hq
        by_cases hc : c = d
        · subst hc; simp [hd, hu]
        · by_cases hcs : c ∈ cs
          · have e : u.isFor q c = tx.isFor q c := funext (hfor c)
            have e2 : look2 u.queues q c = look2 tx.queues q c := by rw [hu]; simp [look2_put2, Ne.symm hc]
            simp [hcs, e, hfilter c hcs, e2]
          · simp [hcs, hc, hu, look2_put2, Ne.symm hc]
      · simp [hq, hu, look2_put2, Ne.symm hq]
    · rw [h4, hsend]
      simp only [hfor]
      cases tx.sending with
      | none => rfl
      | some i => cases h : tx.isFor p d i <;> simp [Option.filter, h]
    · rw [h5, hu]; simp
    · rw [h6, hu]; simp
    · rw [h7, hu]; simp
    · rw [h8, hu]; simp
    · rw [h9, hu]; simp

/-! ## The send side of a close, whole (R12, R105 to R107) -/

section ClosePeer
variable {p : Station}

/-- Counters, ack timer and retry count of `p` stand at 0 after a close, and a tie to a slot of `p` is gone (R90, R106). -/
theorem closePeer_zero (tx : TransmitUnit) (p : Station) (reason : CloseReason) :
    (∀ c : Cls, look2 (tx.closePeer p reason).counters p c = .zero) ∧
    look (tx.closePeer p reason).ackTimers p = .stopped ∧ look (tx.closePeer p reason).retries p = 0 := by
  simp [TransmitUnit.closePeer, TransmitUnit.zeroPeer, look2]

/-- A close other than RESTART: the relation every statement about one uses. -/
theorem closePeer_closes {s t : State} {reason : CloseReason} (hr : reason ≠ .restart)
    (ht : t.tx = s.tx.closePeer p reason) : SendSideCloses reason p s t := by
  have e : s.tx.closeSlots p reason = classes.foldl (TransmitUnit.dropClass p reason) s.tx := by
    simp [TransmitUnit.closeSlots, hr]
  obtain ⟨h1, h2, h3, h4, h5, h6, h7, h8, h9⟩ := dropClasses_spec p reason classes (by decide) s.tx
  rw [← e] at h1 h2 h3 h4 h5 h6 h7 h8 h9
  have hd : classes.flatMap (s.tx.doomedIn p) = s.doomed p := rfl
  have hz := closePeer_zero s.tx p reason
  have hpool : t.tx.pool = (s.tx.closeSlots p reason).pool := by rw [ht]; rfl
  have hfl : t.tx.flights = (s.tx.closeSlots p reason).flights := by rw [ht]; rfl
  have hqu : t.tx.queues = (s.tx.closeSlots p reason).queues := by rw [ht]; rfl
  refine ⟨⟨?_, ?_, ?_⟩, ?_, ?_, ?_, ?_, ?_, ?_⟩
  · rw [ht, ← hd]; exact h1
  · intro i hi r hri
    rw [hpool, h2, hd, if_pos hi, (slot_iff _ _ _).mp hri]
    rfl
  · intro i hi _
    rw [hpool, h2, hd, if_neg hi]
  · intro c
    rw [hfl, hqu]
    simpa using (h3 p c).symm
  · rw [← ht] at hz
    exact hz
  · intro q hq
    have hc : look t.tx.counters q = look s.tx.counters q := by
      rw [ht]; simp [TransmitUnit.closePeer, TransmitUnit.zeroPeer, TransmitUnit.detach, look_put_ne _ _ (Ne.symm hq), h5]
    have ha : look t.tx.ackTimers q = look s.tx.ackTimers q := by
      rw [ht]; simp [TransmitUnit.closePeer, TransmitUnit.zeroPeer, TransmitUnit.detach, look_put_ne _ _ (Ne.symm hq), h6]
    have hre : look t.tx.retries q = look s.tx.retries q := by
      rw [ht]; simp [TransmitUnit.closePeer, TransmitUnit.zeroPeer, TransmitUnit.detach, look_put_ne _ _ (Ne.symm hq), h7]
    refine ⟨?_, ?_, hc, ha, hre⟩
    · rw [hqu]; apply table_ext; intro c; simpa [hq, look2] using (h3 q c).2
    · rw [hfl]; apply table_ext; intro c; simpa [hq, look2] using (h3 q c).1
  · rw [ht]; exact h4
  · rw [ht]
    show (s.tx.closeSlots p reason).tie.filter _ = _
    rw [h8]
  · rw [ht]; exact h9

/-- A RESTART close, where the sending slot is not also in flight (R68). -/
theorem closePeer_restarts {s t : State} (hs : ∀ i ∈ s.tx.sending, ∀ c : Cls, i ∉ look2 s.tx.flights p c)
    (ht : t.tx = s.tx.closePeer p .restart) : SendSideRestarts p s t := by
  have e : s.tx.closeSlots p .restart = classes.foldl (TransmitUnit.restartClass p) s.tx := by
    simp [TransmitUnit.closeSlots]
  obtain ⟨h1, h2, h3, h4, h5, h6, h7, h8, h9⟩ :=
    restartClasses_spec p classes (by decide) s.tx (fun i hi c _ => hs i hi c)
  rw [← e] at h1 h2 h3 h4 h5 h6 h7 h8 h9
  have hd : classes.flatMap (look2 s.tx.flights p) = s.flying p := rfl
  have hz := closePeer_zero s.tx p .restart
  have hpool : t.tx.pool = (s.tx.closeSlots p .restart).pool := by rw [ht]; rfl
  have hfl : t.tx.flights = (s.tx.closeSlots p .restart).flights := by rw [ht]; rfl
  have hqu : t.tx.queues = (s.tx.closeSlots p .restart).queues := by rw [ht]; rfl
  have hany : ∀ i : TxIx, (classes.any fun c => s.tx.isFor p c i) = (s.tx.slot i).any (·.destination = p) := by
    intro i
    simp only [TransmitUnit.isFor]
    cases s.tx.slot i with
    | none => rfl
    | some r =>
      simp only [Option.any_some, List.any_eq, mem_classes, true_and, Bool.and_eq_true, decide_eq_true_eq]
      simp
  refine ⟨⟨?_, ?_, ?_⟩, ?_, ?_, ?_, ?_, ?_, ?_, ?_⟩
  · rw [ht, ← hd]; exact h1
  · intro i hi r hri
    rw [hpool, h2, hd, if_pos hi, (slot_iff _ _ _).mp hri]
    rfl
  · intro i hi hb
    rw [hpool, h2, hd, if_neg hi, if_neg]
    rintro ⟨h, _⟩
    simp [h] at hb
  · intro i hi
    have hn : i ∉ s.flying p := by
      rw [← hd, List.mem_flatMap]
      rintro ⟨c, _, hc⟩
      exact hs i hi c hc
    have hi' : s.tx.sending = some i := hi
    rw [hpool, h2, hd, if_neg hn, hany]
    cases hl : look s.tx.pool i with
    | free => simp [TransmitUnit.slot, hl]
    | held r =>
      by_cases hp : r.destination = p <;> simp [TransmitUnit.slot, hl, hi', hp, TxRecord.requeued]
  · intro c
    rw [hfl, hqu]
    obtain ⟨a, b⟩ := h3 p c
    rw [a, b]
    simp
  · rw [← ht] at hz
    exact hz
  · intro q hq
    have hc : look t.tx.counters q = look s.tx.counters q := by
      rw [ht]; simp [TransmitUnit.closePeer, TransmitUnit.zeroPeer, TransmitUnit.detach, look_put_ne _ _ (Ne.symm hq), h5]
    have ha : look t.tx.ackTimers q = look s.tx.ackTimers q := by
      rw [ht]; simp [TransmitUnit.closePeer, TransmitUnit.zeroPeer, TransmitUnit.detach, look_put_ne _ _ (Ne.symm hq), h6]
    have hre : look t.tx.retries q = look s.tx.retries q := by
      rw [ht]; simp [TransmitUnit.closePeer, TransmitUnit.zeroPeer, TransmitUnit.detach, look_put_ne _ _ (Ne.symm hq), h7]
    refine ⟨?_, ?_, hc, ha, hre⟩
    · rw [hqu]; apply table_ext; intro c; simpa [hq, look2] using (h3 q c).2
    · rw [hfl]; apply table_ext; intro c; simpa [hq, look2] using (h3 q c).1
  · rw [ht]; exact h4
  · rw [ht]
    show (s.tx.closeSlots p .restart).tie.filter _ = _
    rw [h8]
  · rw [ht]; exact h9

end ClosePeer

/-! ## A valid TALLY (R98, R99) -/

/-- The slots of class `c` that a TALLY acknowledges, in list order. -/
def TransmitUnit.acknowledged (tx : TransmitUnit) (p : Station) (pairs : PerClass TallyPair) (c : Cls) : List TxIx :=
  (look2 tx.flights p c).filter (tx.liesBefore (look2 tx.counters p c).acked (look pairs c).accepted)

/-- The in-flight list of class `c` that a TALLY leaves. -/
def TransmitUnit.unacknowledged (tx : TransmitUnit) (p : Station) (pairs : PerClass TallyPair) (c : Cls) : List TxIx :=
  (look2 tx.flights p c).filter fun i => !tx.liesBefore (look2 tx.counters p c).acked (look pairs c).accepted i

/-- Where a slot stays as it is, so does its place before `a`. -/
theorem liesBefore_congr {tx u : TransmitUnit} {i : TxIx} (h : look u.pool i = look tx.pool i) (acked a : Count) :
    u.liesBefore acked a i = tx.liesBefore acked a i := by
  simp only [TransmitUnit.liesBefore, TransmitUnit.slot, h]

/-- The classes of `cs`, each once, acknowledged in turn, where no slot is in flight in two classes. -/
theorem applyClasses_spec (p : Station) (pairs : PerClass TallyPair) (cs : List Cls) (hn : cs.Nodup) (tx : TransmitUnit)
    (hs : ∀ c d : Cls, c ≠ d → ∀ i ∈ look2 tx.flights p c, i ∉ look2 tx.flights p d) :
    let t := cs.foldl (TransmitUnit.applyClass p pairs) tx
    t.completions = tx.completions ++ cs.flatMap (tx.acknowledged p pairs) ∧
    (∀ i : TxIx, look t.pool i =
      if i ∈ cs.flatMap (tx.acknowledged p pairs) then (look tx.pool i).change (.finished .sent .none)
      else look tx.pool i) ∧
    (∀ (q : Station) (c : Cls),
      look2 t.flights q c = (if q = p ∧ c ∈ cs then tx.unacknowledged p pairs c else look2 tx.flights q c) ∧
      look2 t.counters q c =
        if q = p ∧ c ∈ cs then
          (look2 tx.counters p c).afterTally (look pairs c) (tx.unacknowledged p pairs c).isEmpty
        else look2 tx.counters q c) ∧
    t.queues = tx.queues ∧ t.sending = tx.sending ∧ t.ackTimers = tx.ackTimers ∧ t.retries = tx.retries ∧
    t.tie = tx.tie ∧ t.nextOrder = tx.nextOrder := by
  induction cs generalizing tx with
  | nil => simp
  | cons d cs ih =>
    obtain ⟨hd, hn⟩ := List.nodup_cons.mp hn
    let u := TransmitUnit.applyClass p pairs tx d
    have hu : u =
        { tx.finishAll .sent .none (tx.acknowledged p pairs d) with
          flights := put2 tx.flights p d (tx.unacknowledged p pairs d)
          counters := put2 tx.counters p d
            ((look2 tx.counters p d).afterTally (look pairs d) (tx.unacknowledged p pairs d).isEmpty) } := rfl
    have hpool : ∀ i : TxIx, look u.pool i =
        if i ∈ tx.acknowledged p pairs d then (look tx.pool i).change (.finished .sent .none) else look tx.pool i := by
      intro i; rw [hu]; exact look_finishAll _ _ _ _ _
    have hfl : ∀ c : Cls, c ≠ d → look2 u.flights p c = look2 tx.flights p c := by
      intro c hc; rw [hu]; simp [look2_put2, Ne.symm hc]
    have hco : ∀ c : Cls, c ≠ d → look2 u.counters p c = look2 tx.counters p c := by
      intro c hc; rw [hu]; simp [look2_put2, Ne.symm hc]
    have hsame : ∀ c : Cls, c ≠ d → ∀ i ∈ look2 tx.flights p c, look u.pool i = look tx.pool i := by
      intro c hc i hi
      rw [hpool, if_neg]
      intro h
      exact hs c d hc i hi (List.mem_filter.mp h).1
    have hack : ∀ c : Cls, c ≠ d → u.acknowledged p pairs c = tx.acknowledged p pairs c := by
      intro c hc
      simp only [TransmitUnit.acknowledged, hfl c hc, hco c hc]
      apply List.filter_congr
      intro i hi
      exact liesBefore_congr (hsame c hc i hi) _ _
    have hun : ∀ c : Cls, c ≠ d → u.unacknowledged p pairs c = tx.unacknowledged p pairs c := by
      intro c hc
      simp only [TransmitUnit.unacknowledged, hfl c hc, hco c hc]
      apply List.filter_congr
      intro i hi
      rw [liesBefore_congr (hsame c hc i hi)]
    have hflat : cs.flatMap (u.acknowledged p pairs) = cs.flatMap (tx.acknowledged p pairs) := by
      rw [List.flatMap, List.flatMap, List.map_congr_left fun c hc => hack c fun e => hd (e ▸ hc)]
    have hsub : ∀ c : Cls, ∀ i ∈ look2 u.flights p c, i ∈ look2 tx.flights p c := by
      intro c i hi
      by_cases hc : c = d
      · subst hc
        rw [hu] at hi
        simp only [look2_put2_self] at hi
        exact (List.mem_filter.mp hi).1
      · rwa [hfl c hc] at hi
    obtain ⟨h1, h2, h3, h4, h5, h6, h7, h8, h9⟩ :=
      ih hn u (fun c e hce i hi hi' => hs c e hce i (hsub c i hi) (hsub e i hi'))
    simp only [List.foldl_cons]
    have hfold : cs.foldl (TransmitUnit.applyClass p pairs) (TransmitUnit.applyClass p pairs tx d) =
        cs.foldl (TransmitUnit.applyClass p pairs) u := rfl
    rw [hfold]
    refine ⟨?_, ?_, ?_, ?_, ?_, ?_, ?_, ?_, ?_⟩
    · rw [h1, hflat, hu]; simp
    · intro i
      rw [h2, hpool, hflat]
      simp only [List.flatMap_cons, List.mem_append]
      by_cases ha : i ∈ tx.acknowledged p pairs d <;> by_cases hb : i ∈ cs.flatMap (tx.acknowledged p pairs) <;>
        simp only [ha, hb, if_true, if_false, or_self, or_true, true_or]
      cases look tx.pool i <;> simp
    · intro q c
      obtain ⟨a, b⟩ := h3 q c
      rw [a, b]
      by_cases hq : q = p
      · subst hq
        by_cases hc : c = d
        · subst hc; simp [hd, hu]
        · by_cases hcs : c ∈ cs
          · simp [hcs, hun c hc, hco c hc]
          · simp [hcs, hc, hfl c hc, hco c hc]
      · simp [hq, hu, look2_put2, Ne.symm hq]
    · rw [h4, hu]; simp
    · rw [h5, hu]; simp
    · rw [h6, hu]; simp
    · rw [h7, hu]; simp
    · rw [h8, hu]; simp
    · rw [h9, hu]; simp

/-- A valid TALLY applied, where no slot is in flight to `p` in two classes: slots, lists and counters class by class, then
the retry count and the ack timer (R98, R99). -/
theorem applyTally_spec (tx : TransmitUnit) (p : Station) (pairs : PerClass TallyPair) (ackTimeout : Nat)
    (hs : ∀ c d : Cls, c ≠ d → ∀ i ∈ look2 tx.flights p c, i ∉ look2 tx.flights p d) :
    let t := tx.applyTally p pairs ackTimeout
    t.completions = tx.completions ++ classes.flatMap (tx.acknowledged p pairs) ∧
    (∀ i : TxIx, look t.pool i =
      if i ∈ classes.flatMap (tx.acknowledged p pairs) then (look tx.pool i).change (.finished .sent .none)
      else look tx.pool i) ∧
    (∀ (q : Station) (c : Cls),
      look2 t.flights q c = (if q = p then tx.unacknowledged p pairs c else look2 tx.flights q c) ∧
      look2 t.counters q c =
        if q = p then (look2 tx.counters p c).afterTally (look pairs c) (tx.unacknowledged p pairs c).isEmpty
        else look2 tx.counters q c) ∧
    t.queues = tx.queues ∧ t.sending = tx.sending ∧ t.tie = tx.tie ∧ t.nextOrder = tx.nextOrder ∧
    t.retries = (if tx.advances p pairs then put tx.retries p 0 else tx.retries) ∧
    t.ackTimers =
      if tx.advances p pairs then
        put tx.ackTimers p (if t.anyInFlight p then .start ackTimeout else .stopped)
      else tx.ackTimers := by
  obtain ⟨h1, h2, h3, h4, h5, h6, h7, h8, h9⟩ := applyClasses_spec p pairs classes (by decide) tx hs
  simp only [TransmitUnit.applyTally]
  simp only [mem_classes, and_true] at h3
  split
  · refine ⟨h1, h2, h3, h4, h5, h8, h9, by rw [h7], by rw [h6]; rfl⟩
  · exact ⟨h1, h2, h3, h4, h5, h8, h9, h7, h6⟩

/-! ## The ack timer (R102) -/

/-- The classes of `cs`, each once, go back to acked where messages are in flight. -/
theorem goBacks_spec (p : Station) (cs : List Cls) (hn : cs.Nodup) (tx : TransmitUnit) :
    let t := cs.foldl (TransmitUnit.goBack p) tx
    (∀ (q : Station) (c : Cls), look2 t.counters q c =
      if q = p ∧ c ∈ cs ∧ look2 tx.flights p c ≠ [] then
        { look2 tx.counters p c with resend := some (look2 tx.counters p c).acked }
      else look2 tx.counters q c) ∧
    t = { tx with counters := t.counters } := by
  induction cs generalizing tx with
  | nil => simp
  | cons d cs ih =>
    obtain ⟨hd, hn⟩ := List.nodup_cons.mp hn
    let u := TransmitUnit.goBack p tx d
    have hu : u = { tx with counters := u.counters } := by
      simp only [u, TransmitUnit.goBack]; split <;> rfl
    have hcu : ∀ (q : Station) (c : Cls), look2 u.counters q c =
        if q = p ∧ c = d ∧ look2 tx.flights p c ≠ [] then
          { look2 tx.counters p c with resend := some (look2 tx.counters p c).acked }
        else look2 tx.counters q c := by
      intro q c
      simp only [u, TransmitUnit.goBack]
      split
      · rename_i he
        rw [if_neg]
        rintro ⟨_, rfl, h⟩
        exact h (List.isEmpty_iff.mp he)
      · rename_i he
        simp only [look2_put2]
        by_cases hqc : p = q ∧ d = c
        · obtain ⟨rfl, rfl⟩ := hqc
          simp [List.isEmpty_iff] at he
          simp [he]
        · rw [if_neg hqc, if_neg]
          rintro ⟨rfl, rfl, _⟩
          exact hqc ⟨rfl, rfl⟩
    obtain ⟨h1, h2⟩ := ih hn u
    simp only [List.foldl_cons]
    refine ⟨?_, ?_⟩
    · intro q c
      have e : look2 u.flights p c = look2 tx.flights p c := by rw [hu]
      rw [h1, hcu, hcu, e]
      by_cases hc : c = d
      · subst hc; simp [hd]
      · simp [hc]
    · rw [h2, hu]

/-- An expiry below the retry limit: a retry counted, and the go-back (R102, steps 1 to 3). -/
theorem retry_spec (tx : TransmitUnit) (p : Station) :
    (∀ (q : Station) (c : Cls), look2 (tx.retry p).counters q c =
      if q = p ∧ look2 tx.flights p c ≠ [] then
        { look2 tx.counters p c with resend := some (look2 tx.counters p c).acked }
      else look2 tx.counters q c) ∧
    tx.retry p = { tx with retries := put tx.retries p (look tx.retries p + 1), counters := (tx.retry p).counters } := by
  obtain ⟨h1, h2⟩ := goBacks_spec p classes (by decide) { tx with retries := alter tx.retries p (· + 1) }
  exact ⟨by simpa [TransmitUnit.retry] using h1, h2⟩

end Sys2Proof.Machine
end

