-- ==== Sys2Proof/Laws/Lines.lean ====
section
/-! SUPPORT. What the Transmit Arbiter's and the Line Unit's shared operations do, said once: the round-robin count (R113),
the selection and its build (R112 to R116), the restoring of a claim (R118), and the start of another station's frame. -/

namespace Sys2Proof.Machine

/-! ## The round robin (R113) -/

theorem turn_forth : ∀ ptr q : Station, ptr + 1 + (q - ptr - 1) = q := by decide
theorem turn_back : ∀ ptr x : Station, ptr + 1 + x - ptr - 1 = x := by decide

/-- The first station satisfying `f` from `ptr` is the one that comes first by turn. -/
theorem nextAfter_served {ptr p : Station} {f : Station → Bool} : nextAfter ptr f = some p ↔ ServedNext ptr f p := by
  simp only [nextAfter, List.find?_eq_some_iff_getElem, ServedNext, turn]
  constructor
  · rintro ⟨hp, i, hi, hg, hlt⟩
    refine ⟨hp, fun q hq => ?_⟩
    simp only [stations, List.map_cons, List.map_nil, List.length_cons, List.length_nil] at hi
    by_contra hn
    have hq' : q = ptr + 1 + (q - ptr - 1) := (turn_forth ptr q).symm
    have hk : (q - ptr - 1).val < i := by
      have : (p - ptr - 1).val = i := by
        rw [← hg]
        simp only [List.getElem_map, turn_back]
        interval_cases i <;> rfl
      omega
    have := hlt (q - ptr - 1).val hk
    simp only [List.getElem_map, Bool.not_eq_true', ] at this
    have e : stations[(q - ptr - 1).val]'(by simp [stations]) = q - ptr - 1 := by
      generalize q - ptr - 1 = x
      revert x; decide
    rw [e, ← hq', hq] at this
    cases this
  · rintro ⟨hp, hmin⟩
    refine ⟨hp, (p - ptr - 1).val, by simp [stations], ?_, fun j hj => ?_⟩
    · have e : stations[(p - ptr - 1).val]'(by simp [stations]) = p - ptr - 1 := by
        generalize p - ptr - 1 = x
        revert x; decide
      simp only [List.getElem_map, e, turn_forth]
    · have hj16 : j < 16 := by omega
      have e : stations[j]'(by simp [stations]; omega) = (⟨j, hj16⟩ : Station) := by
        interval_cases j <;> rfl
      simp only [List.getElem_map, e, Bool.not_eq_true']
      by_contra hn
      have hf : f (ptr + 1 + ⟨j, hj16⟩) = true := by simpa using hn
      have := hmin _ hf
      rw [turn_back] at this
      simp only at this
      omega

/-! ## Selection (R112) -/

section Select
variable {s : State}

theorem select_announce (ha : s.control.station = .active) (h : s.arb.announce = true) : s.select = some .announce := by
  simp [State.select, State.isActive, ha, h]

/-- The SEVER set offers nothing where it is empty. -/
theorem selectSever_none (h : ∀ q : Station, look s.arb.severs q = none) : s.selectSever = none := by
  have : nextAfter s.arb.severPtr (fun p => (look s.arb.severs p).isSome) = none := nextAfter_none.mpr (by simp [h])
  simp [State.selectSever, this]

theorem selectSever_some {p : Station} {c : SeverClaim}
    (hp : ServedNext s.arb.severPtr (fun q => (look s.arb.severs q).isSome) p) (hc : look s.arb.severs p = some c) :
    s.selectSever = some (.sever p c) := by
  simp [State.selectSever, nextAfter_served.mpr hp, hc]

theorem select_sever {p : Station} {c : SeverClaim}
    (ha : s.control.station = .active ∧ s.arb.announce = false ∨ s.control.station = .leaving)
    (hp : ServedNext s.arb.severPtr (fun q => (look s.arb.severs q).isSome) p) (hc : look s.arb.severs p = some c) :
    s.select = some (.sever p c) := by
  obtain ⟨h1, h2⟩ | h1 := ha
  · simp [State.select, State.isActive, h1, h2, selectSever_some hp hc]
  · simp [State.select, State.isActive, h1, selectSever_some hp hc]

theorem select_join {p : Station} (ha : s.control.station = .active) (h1 : s.arb.announce = false)
    (h2 : ∀ q : Station, look s.arb.severs q = none) (hp : ServedNext s.arb.joinPtr (look s.arb.joins) p) :
    s.select = some (.join p) := by
  simp [State.select, State.isActive, ha, h1, selectSever_none h2, nextAfter_served.mpr hp]

theorem select_tally {p : Station} (ha : s.control.station = .active) (h1 : s.arb.announce = false)
    (h2 : ∀ q : Station, look s.arb.severs q = none) (h3 : ∀ q : Station, look s.arb.joins q = false)
    (hp : ServedNext s.arb.tallyPtr (look s.arb.tallies) p) : s.select = some (.tally p) := by
  simp [State.select, State.isActive, ha, h1, selectSever_none h2, nextAfter_none.mpr h3, nextAfter_served.mpr hp]

theorem select_data (h : DataOffered s) : s.select = s.selectData := by
  obtain ⟨ha, h1, h2, h3, h4, h5⟩ := h
  simp [State.select, State.isActive, ha, h1, selectSever_none h2, nextAfter_none.mpr h3, nextAfter_none.mpr h4, h5]

theorem select_none
    (h : s.control.station ≠ .active ∨
      s.arb.announce = false ∧ (∀ p : Station, look s.arb.joins p = false ∧ look s.arb.tallies p = false) ∧
      (s.arb.yield = true ∨ s.selectData = none))
    (h2 : ∀ q : Station, look s.arb.severs q = none) : s.select = none := by
  by_cases ha : s.control.station = .active
  · obtain h | ⟨h1, h3, h4⟩ := h
    · exact absurd ha h
    · have j := nextAfter_none (ptr := s.arb.joinPtr).mpr fun p => (h3 p).1
      have t := nextAfter_none (ptr := s.arb.tallyPtr).mpr fun p => (h3 p).2
      obtain h4 | h4 := h4 <;> simp [State.select, State.isActive, ha, h1, selectSever_none h2, j, t, h4]
  · simp [State.select, State.isActive, ha, selectSever_none h2]

end Select

/-! ## Data (R87, R114) -/

section Data
variable (s : State) (p : Station) (c : Cls)

theorem dueSlot_some {i : TxIx} {q : Count} (h : s.tx.dueSlot p c = some (i, q)) (ho : (s.entry p).state = .opened) :
    ResendDue s p c i q := by
  simp only [TransmitUnit.dueSlot, Option.bind_eq_some_iff, Option.map_eq_some_iff, Prod.mk.injEq] at h
  obtain ⟨q', hq, j, hj, rfl, rfl⟩ := h
  exact ⟨ho, hq, List.mem_of_find?_eq_some hj, List.find?_some hj⟩

theorem dueSlot_of_due {i : TxIx} {q : Count} (h : ResendDue s p c i q) : ∃ j : TxIx, s.tx.dueSlot p c = some (j, q) := by
  obtain ⟨_, hq, hi, hc⟩ := h
  simp only [TransmitUnit.dueSlot, hq, Option.bind_some]
  cases hf : (look2 s.tx.flights p c).find? (s.tx.carries q) with
  | none =>
    rw [List.find?_eq_none] at hf
    exact absurd hc (hf i hi)
  | some j => exact ⟨j, rfl⟩

theorem eligibleHead_iff (i : TxIx) (ho : (s.entry p).state = .opened) :
    s.tx.eligibleHead p c = some i ↔ HeadEligible s p c i := by
  simp only [TransmitUnit.eligibleHead, HeadEligible, TransmitUnit.credit, ho, true_and]
  by_cases h : (look2 s.tx.counters p c).resend = none ∧
      0 < dist (look2 s.tx.counters p c).next (look2 s.tx.counters p c).limit
  · simp [h]
  · simp only [h, if_false, reduceCtorEq, false_iff]
    rintro ⟨a, b, _⟩
    exact h ⟨a, b⟩

/-- A resend due is sendable. -/
theorem sendable_resend {q : Count} (h : ∃ i : TxIx, ResendDue s p c i q) :
    ∃ i : TxIx, ResendDue s p c i q ∧ s.sendable p c = some (.resend p c i q) := by
  obtain ⟨i, hi⟩ := h
  obtain ⟨j, hj⟩ := dueSlot_of_due s p c hi
  exact ⟨j, dueSlot_some s p c hj hi.1, by simp [State.sendable, State.isOpen, hi.1, hj]⟩

/-- An eligible head is sendable. -/
theorem sendable_first {i : TxIx} (h : HeadEligible s p c i) : s.sendable p c = some (.first p c i) := by
  have hd : s.tx.dueSlot p c = none := by simp [TransmitUnit.dueSlot, h.2.1]
  simp [State.sendable, State.isOpen, h.1, hd, (eligibleHead_iff s p c i h.1).mpr h]

/-- Nothing else is. -/
theorem sendable_isSome : (s.sendable p c).isSome = s.hasSendable p c := by
  rw [Bool.eq_iff_iff]
  simp only [State.hasSendable, Bool.or_eq_true, decide_eq_true_eq]
  constructor
  · intro h
    by_cases ho : (s.entry p).state = .opened
    · cases hd : s.tx.dueSlot p c with
      | some x =>
        obtain ⟨i, q⟩ := x
        have := dueSlot_some s p c hd ho
        exact .inr ⟨i, q, this.2.1, this⟩
      | none =>
        simp only [State.sendable, State.isOpen, ho, decide_true, if_true, hd, Option.isSome_map] at h
        obtain ⟨i, hi⟩ := Option.isSome_iff_exists.mp h
        exact .inl ⟨i, (eligibleHead_iff s p c i ho).mp hi⟩
    · simp [State.sendable, State.isOpen, ho] at h
  · rintro (⟨i, hi⟩ | ⟨i, q, _, hi⟩)
    · simp [sendable_first s p c hi]
    · obtain ⟨j, _, hj⟩ := sendable_resend s p c ⟨i, hi⟩
      simp [hj]

/-- Data of the peer and class served (R114). -/
theorem selectData_served (hl : ∀ d : Cls, d < c → ∀ q : Station, s.hasSendable q d = false)
    (hp : ServedNext (look s.arb.dataPtrs c) (fun q => s.hasSendable q c) p) : s.selectData = s.sendable p c := by
  have hsome : s.sendable p c ≠ none := by
    have h1 : s.hasSendable p c = true := hp.1
    rw [← sendable_isSome] at h1
    intro h
    simp [h] at h1
  have e : ∀ d : Cls, (fun q => (s.sendable q d).isSome) = fun q => s.hasSendable q d :=
    fun d => funext fun q => sendable_isSome s q d
  have hnone : ∀ d : Cls, d < c →
      (nextAfter (look s.arb.dataPtrs d) fun q => s.hasSendable q d).bind (fun q => s.sendable q d) = none := by
    intro d hd
    rw [nextAfter_none.mpr (hl d hd)]
    rfl
  have hc : (nextAfter (look s.arb.dataPtrs c) fun q => s.hasSendable q c).bind (fun q => s.sendable q c) =
      s.sendable p c := by
    rw [nextAfter_served.mpr hp]
    rfl
  simp only [State.selectData, e]
  obtain ⟨x, hx⟩ := Option.ne_none_iff_exists'.mp hsome
  rw [hx] at hc ⊢
  have h4 : c = 0 ∨ c = 1 ∨ c = 2 ∨ c = 3 := by fin_cases c <;> simp
  obtain rfl | rfl | rfl | rfl := h4 <;>
    simp [classes, hc, hnone]

/-- No data where no peer has anything sendable. -/
theorem selectData_none (h : ∀ (q : Station) (d : Cls), s.hasSendable q d = false) : s.selectData = none := by
  have e : ∀ d : Cls, nextAfter (look s.arb.dataPtrs d) (fun q => (s.sendable q d).isSome) = none := by
    intro d
    rw [nextAfter_none]
    intro q
    rw [sendable_isSome]
    exact h q d
  simp [State.selectData, e]

end Data

/-! ## The build -/

/-- A selection takes place, and builds what it finds (R112). -/
theorem selectAndBuild_some {s : State} {ch : Choice}
    (h1 : s.control.station = .active ∨ s.control.station = .leaving) (h2 : s.line.state = .idle)
    (h3 : s.line.outbound = none) (h : s.select = some ch) : s.selectAndBuild = s.build ch := by
  have : s.maySelect = true := by simp [State.maySelect, h1, h2, h3]
  simp [State.selectAndBuild, this, h]

theorem selectAndBuild_none {s : State} (h : s.select = none) : s.selectAndBuild = s := by
  simp [State.selectAndBuild, h]

/-! ## A claim restored (R118) -/

/-- The end of the frame in hand by loss or abort. -/
theorem giveBack_restored {a : Arbiter} {h : InHand} (ha : a.inHand = some h) (active : Bool) :
    ClaimRestored h active a (a.giveBack active) := by
  obtain ⟨k, w⟩ := h
  simp only [ClaimRestored, Arbiter.giveBack, ha]
  cases w
  · cases k <;> simp [Arbiter.restoreClaim, Arbiter.claimJoin, Arbiter.claimTally, Arbiter.claimSever]
    · cases active <;> simp
    · rename_i p c
      cases hs : look a.severs p <;> simp
  · cases k <;> simp

/-- With nothing in hand nothing is given back. -/
theorem giveBack_none {a : Arbiter} (ha : a.inHand = none) (active : Bool) : a.giveBack active = a := by
  simp [Arbiter.giveBack, ha]

/-! ## The start of another station's frame (R125, R126) -/

/-- Reading a start bit once more changes nothing. -/
theorem reading_reading {s r : State} (h : s.reading = some r) : r.reading = some r := by
  unfold State.reading at h
  split at h <;> cases h
  · rfl
  · rfl
  · rfl
  · rename_i hf; simp [State.reading, hf]

/-- The line assembles a frame then, and the port and what the host is alerted by are as before. -/
theorem reading_spec {s r : State} (h : s.reading = some r) :
    r.line.state = .receiving .frame ∧ r.port = s.port ∧ r.control = s.control ∧ r.session = s.session ∧ r.rx = s.rx ∧
      r.tx.completions = s.tx.completions ∧ r.attnLevel = s.attnLevel := by
  have hl : s.tx.lost.completions = s.tx.completions := by
    simp only [TransmitUnit.lost]
    cases s.tx.tie with
    | none => rfl
    | some t => simp only; split <;> simp
  have ha : ∀ u : State, u.control = s.control → u.session = s.session → u.rx = s.rx →
      u.tx.completions = s.tx.completions → u.attnLevel = s.attnLevel := by
    intro u h1 h2 h3 h4
    simp [State.attnLevel, State.summary, State.isActive, State.anyChanged, State.hasMessage, State.own, State.entry, h1,
      h2, h3, h4]
  unfold State.reading at h
  split at h <;> cases h
  · exact ⟨rfl, rfl, rfl, rfl, rfl, rfl, ha _ rfl rfl rfl rfl⟩
  · exact ⟨rfl, rfl, rfl, rfl, rfl, hl, ha _ rfl rfl rfl hl⟩
  · exact ⟨rfl, rfl, rfl, rfl, rfl, rfl, ha _ rfl rfl rfl rfl⟩
  · exact ⟨by assumption, rfl, rfl, rfl, rfl, rfl, rfl⟩

end Sys2Proof.Machine
end

