-- ==== Sys2Proof/Laws/Receive.lean ====
section
/-! SUPPORT. What each shared operation of the Receive Unit does, said once: the reservation at an open (R35), the
freeing at a close (R37), and the choice of a TAKE or PEEK (R57). -/

namespace Sys2Proof.Machine

/-! ## Counting slots -/

section Counting
variable {α : Type} {n : Nat}

/-- A count after one entry is replaced. -/
theorem countIn_put (f : α → Bool) (v : Vector α n) (i : Fin n) (a : α) :
    countIn f (put v i a) + (f (look v i)).toNat = countIn f v + (f a).toNat := by
  have hl : i.val < v.toList.length := by simp
  have h : (put v i a).toList = v.toList.set i.val a := by simp [put, Vector.toList]
  have hv : v.toList[i.val] = look v i := by simp [look]
  have hs := List.countP_set (p := f) (l := v.toList) (i := i.val) (a := a) hl
  have hp : (f (look v i)) = true → 0 < v.toList.countP f := by
    intro hf
    exact List.countP_pos_iff.mpr ⟨v.toList[i.val], List.getElem_mem hl, by rw [hv]; exact hf⟩
  rw [hv] at hs
  simp only [countIn, h, hs]
  cases h1 : f (look v i) <;> cases h2 : f a <;>
    simp only [h1, Bool.false_eq_true, if_false, if_true, Bool.toNat_true, Bool.toNat_false, forall_const,
      false_implies] at hp ⊢ <;> omega

theorem countIn_eq_zero {f : α → Bool} {v : Vector α n} : countIn f v = 0 ↔ ∀ i : Fin n, f (look v i) = false := by
  simp only [countIn, List.countP_eq_zero]
  constructor
  · intro h i
    simpa using h (look v i) (by simp [look, Vector.mem_toList_iff])
  · intro h a ha
    obtain ⟨k, hk, rfl⟩ := List.mem_iff_getElem.mp ha
    simpa [look] using h ⟨k, by simpa using hk⟩

theorem countIn_pos {f : α → Bool} {v : Vector α n} : 0 < countIn f v ↔ ∃ i : Fin n, f (look v i) = true := by
  rw [Nat.pos_iff_ne_zero, ne_eq, countIn_eq_zero]
  simp

end Counting

/-! ## The reservation of one class -/

/-- Each place is as it was, or was FREE and is RESERVED now. -/
theorem reserveSlots_get (p : Station) (c : Cls) (k : Nat) (l : List RxSlot) (i : Nat) (h : i < l.length) :
    (reserveSlots p c k l)[i]'(by rw [reserveSlots_length]; exact h) = l[i] ∨
      l[i] = .free ∧ (reserveSlots p c k l)[i]'(by rw [reserveSlots_length]; exact h) = .reserved p c := by
  induction l generalizing k i with
  | nil => simp at h
  | cons x l ih =>
    cases k with
    | zero => left; rfl
    | succ k =>
      cases i with
      | zero => cases x <;> simp [reserveSlots]
      | succ i =>
        have hi : i < l.length := by simpa using h
        cases x <;> simp only [reserveSlots, List.getElem_cons_succ] <;> exact ih _ i hi

/-- `k` FREE slots, if there are so many, are RESERVED(p, c). -/
theorem reserveSlots_count (p : Station) (c : Cls) (k : Nat) (l : List RxSlot) :
    (reserveSlots p c k l).countP (RxSlot.isReserved p c) =
      l.countP (RxSlot.isReserved p c) + min k (l.countP RxSlot.isFree) ∧
    (reserveSlots p c k l).countP RxSlot.isFree = l.countP RxSlot.isFree - k := by
  induction l generalizing k with
  | nil => cases k <;> simp [reserveSlots]
  | cons x l ih =>
    cases k with
    | zero => simp [reserveSlots]
    | succ k =>
      cases x with
      | free =>
        obtain ⟨h1, h2⟩ := ih k
        simp [reserveSlots, List.countP_cons, RxSlot.isReserved, RxSlot.isFree] at h1 h2 ⊢
        omega
      | reserved q d =>
        obtain ⟨h1, h2⟩ := ih (k + 1)
        simp only [reserveSlots, List.countP_cons, RxSlot.isFree, h1, h2, Bool.false_eq_true, if_false]
        omega
      | occupied m =>
        obtain ⟨h1, h2⟩ := ih (k + 1)
        simp only [reserveSlots, List.countP_cons, RxSlot.isFree, h1, h2, Bool.false_eq_true, if_false]
        omega

/-- Any other kind of slot keeps its number. -/
theorem reserveSlots_count_other (p : Station) (c : Cls) (k : Nat) (l : List RxSlot) (f : RxSlot → Bool)
    (h : f (.reserved p c) = f .free) : (reserveSlots p c k l).countP f = l.countP f := by
  induction l generalizing k with
  | nil => cases k <;> simp [reserveSlots]
  | cons x l ih =>
    cases k with
    | zero => simp [reserveSlots]
    | succ k => cases x <;> simp [reserveSlots, List.countP_cons, ih, h]

section ReservePool
variable (p : Station) (c : Cls) (k : Nat) (pool : Vector RxSlot Config.rxSlots)

theorem look_reservePool (i : RxIx) :
    look (reservePool p c k pool) i = look pool i ∨
      look pool i = .free ∧ look (reservePool p c k pool) i = .reserved p c := by
  have h : i.val < pool.toList.length := by simp
  simpa [look, reservePool] using reserveSlots_get p c k pool.toList i.val h

theorem countIn_reservePool_reserved :
    countIn (RxSlot.isReserved p c) (reservePool p c k pool) =
      countIn (RxSlot.isReserved p c) pool + min k (countIn RxSlot.isFree pool) :=
  (reserveSlots_count p c k pool.toList).1

theorem countIn_reservePool_free :
    countIn RxSlot.isFree (reservePool p c k pool) = countIn RxSlot.isFree pool - k :=
  (reserveSlots_count p c k pool.toList).2

theorem countIn_reservePool_other (f : RxSlot → Bool) (h : f (.reserved p c) = f .free) :
    countIn f (reservePool p c k pool) = countIn f pool :=
  reserveSlots_count_other p c k pool.toList f h

end ReservePool

/-! ## The reservation of an open (R35) -/

section Reserve
variable (p : Station) (grants : PerClass Nat)

/-- How many slots class `c` has to reserve. -/
def ReceiveUnit.wanted (rx : ReceiveUnit) (p : Station) (grants : PerClass Nat) (c : Cls) : Nat :=
  look grants c - (look2 rx.records p c).occupied

/-- The classes of `cs`, each once, are reserved in turn; the others are as before. -/
theorem reserveClasses_spec (cs : List Cls) (hn : cs.Nodup) (rx : ReceiveUnit)
    (h : (cs.map (rx.wanted p grants)).sum ≤ countIn RxSlot.isFree rx.pool) :
    let r := cs.foldl (ReceiveUnit.reserveClass p grants) rx
    (∀ (q : Station) (c : Cls), look2 r.records q c =
      if q = p ∧ c ∈ cs then
        ⟨0, BitVec.ofNat 8 (rx.wanted p grants c), rx.wanted p grants c, (look2 rx.records p c).occupied⟩
      else look2 rx.records q c) ∧
    (∀ c : Cls, countIn (RxSlot.isReserved p c) r.pool =
      countIn (RxSlot.isReserved p c) rx.pool + if c ∈ cs then rx.wanted p grants c else 0) ∧
    countIn RxSlot.isFree r.pool + (cs.map (rx.wanted p grants)).sum = countIn RxSlot.isFree rx.pool ∧
    (∀ i : RxIx, look r.pool i = look rx.pool i ∨ look rx.pool i = .free ∧ ∃ c : Cls, look r.pool i = .reserved p c) ∧
    (∀ f : RxSlot → Bool, (∀ c : Cls, f (.reserved p c) = f .free) → countIn f r.pool = countIn f rx.pool) ∧
    r.queues = rx.queues := by
  induction cs generalizing rx with
  | nil => simp
  | cons d cs ih =>
    obtain ⟨hd, hn⟩ := List.nodup_cons.mp hn
    let rx1 := rx.reserveClass p grants d
    have hw : ∀ c : Cls, c ≠ d → rx1.wanted p grants c = rx.wanted p grants c := by
      intro c hc
      simp [rx1, ReceiveUnit.wanted, ReceiveUnit.reserveClass, look2_put2, Ne.symm hc]
    have hmap : cs.map (rx1.wanted p grants) = cs.map (rx.wanted p grants) := by
      apply List.map_congr_left
      intro c hc
      exact hw c (fun e => hd (e ▸ hc))
    have hf : countIn RxSlot.isFree rx1.pool = countIn RxSlot.isFree rx.pool - rx.wanted p grants d :=
      countIn_reservePool_free p d _ rx.pool
    simp only [List.map_cons, List.sum_cons] at h
    obtain ⟨h1, h2, h3, h4, h5, h6⟩ := ih hn rx1 (by rw [hmap, hf]; omega)
    simp only [List.foldl_cons]
    refine ⟨?_, ?_, ?_, ?_, ?_, h6⟩
    · intro q c
      rw [h1]
      by_cases hq : q = p
      · subst hq
        by_cases hc : c = d
        · subst hc
          simp [hd, rx1, ReceiveUnit.wanted, ReceiveUnit.reserveClass]
        · have h7 : look2 rx1.records q c = look2 rx.records q c := by
            simp [rx1, ReceiveUnit.reserveClass, look2_put2, Ne.symm hc]
          simp [hc, hw c hc, h7]
      · simp [hq, rx1, ReceiveUnit.reserveClass, look2_put2, Ne.symm hq]
    · intro c
      rw [h2]
      by_cases hc : c = d
      · subst hc
        have : countIn (RxSlot.isReserved p c) rx1.pool =
            countIn (RxSlot.isReserved p c) rx.pool + min (rx.wanted p grants c) (countIn RxSlot.isFree rx.pool) :=
          countIn_reservePool_reserved p c _ rx.pool
        simp only [hd, if_false, List.mem_cons, true_or, if_true, this]
        omega
      · have : countIn (RxSlot.isReserved p c) rx1.pool = countIn (RxSlot.isReserved p c) rx.pool :=
          countIn_reservePool_other p d _ rx.pool _ (by simp [RxSlot.isReserved, Ne.symm hc])
        simp [this, hw c hc, hc]
    · rw [hmap, hf] at h3
      simp only [List.map_cons, List.sum_cons]
      have e : rx.reserveClass p grants d = rx1 := rfl
      rw [e]
      omega
    · intro i
      have hi := look_reservePool p d (rx.wanted p grants d) rx.pool i
      rcases h4 i with h | ⟨h, h'⟩
      · rcases hi with hi | ⟨hi, hi'⟩
        · left; rw [h]; exact hi
        · right; exact ⟨hi, d, by rw [h]; exact hi'⟩
      · rcases hi with hi | ⟨hi, hi'⟩
        · right; exact ⟨by rw [← hi]; exact h, h'⟩
        · right; exact ⟨hi, h'⟩
    · intro f hf
      rw [h5 f hf]
      exact countIn_reservePool_other p d _ rx.pool f (hf d)

/-- The reservation of an open, where the FREE slots suffice (R31, R35). -/
theorem reserve_spec (rx : ReceiveUnit)
    (h : (classes.map (rx.wanted p grants)).sum ≤ countIn RxSlot.isFree rx.pool) :
    (∀ (q : Station) (c : Cls), look2 (rx.reserve p grants).records q c =
      if q = p then
        ⟨0, BitVec.ofNat 8 (rx.wanted p grants c), rx.wanted p grants c, (look2 rx.records p c).occupied⟩
      else look2 rx.records q c) ∧
    (∀ c : Cls, countIn (RxSlot.isReserved p c) (rx.reserve p grants).pool =
      countIn (RxSlot.isReserved p c) rx.pool + rx.wanted p grants c) ∧
    countIn RxSlot.isFree (rx.reserve p grants).pool + (classes.map (rx.wanted p grants)).sum =
      countIn RxSlot.isFree rx.pool ∧
    (∀ i : RxIx, look (rx.reserve p grants).pool i = look rx.pool i ∨
      look rx.pool i = .free ∧ ∃ c : Cls, look (rx.reserve p grants).pool i = .reserved p c) ∧
    (∀ f : RxSlot → Bool, (∀ c : Cls, f (.reserved p c) = f .free) →
      countIn f (rx.reserve p grants).pool = countIn f rx.pool) ∧
    (rx.reserve p grants).queues = rx.queues := by
  simpa only [ReceiveUnit.reserve, mem_classes, and_true, if_true] using reserveClasses_spec p grants classes (by decide) rx h

end Reserve

/-! ## The freeing of a close (R37) -/

section FreePeer
variable (rx : ReceiveUnit) (p : Station)

theorem look_freePeer (i : RxIx) :
    look (rx.freePeer p).pool i = if ∃ c : Cls, look rx.pool i = .reserved p c then .free else look rx.pool i := by
  simp only [ReceiveUnit.freePeer, look_mapAll]
  cases h : look rx.pool i with
  | free => simp [RxSlot.freeIf]
  | occupied m => simp [RxSlot.freeIf]
  | reserved q c =>
    by_cases hq : q = p
    · subst hq; simp [RxSlot.freeIf]
    · simp [RxSlot.freeIf, hq]

theorem look2_freePeer_records (q : Station) (c : Cls) :
    look2 (rx.freePeer p).records q c =
      if q = p then ⟨0, 0, 0, (look2 rx.records p c).occupied⟩ else look2 rx.records q c := by
  simp only [ReceiveUnit.freePeer, look2, look_alter]
  by_cases hq : q = p
  · subst hq; simp
  · simp [hq, Ne.symm hq]

@[simp] theorem freePeer_queues : (rx.freePeer p).queues = rx.queues := rfl

theorem countIn_mapAll {α β : Type} {n : Nat} (g : α → β) (f : β → Bool) (v : Vector α n) :
    countIn f (mapAll g v) = countIn (fun a => f (g a)) v := by
  simp [countIn, mapAll, List.countP_map, Function.comp_def]

/-- No slot is RESERVED for `p` afterwards. -/
theorem countIn_freePeer_own (c : Cls) : countIn (RxSlot.isReserved p c) (rx.freePeer p).pool = 0 := by
  rw [countIn_eq_zero]
  intro i
  rw [look_freePeer]
  split
  · rfl
  · rename_i h
    simp only [RxSlot.isReserved, decide_eq_false_iff_not]
    exact fun e => h ⟨c, e⟩

/-- A kind of slot that a FREE slot is as little as one RESERVED for `p` keeps its number. -/
theorem countIn_freePeer_other (f : RxSlot → Bool) (h : ∀ c : Cls, f (.reserved p c) = f .free) :
    countIn f (rx.freePeer p).pool = countIn f rx.pool := by
  simp only [ReceiveUnit.freePeer, countIn_mapAll]
  congr 1
  funext x
  cases x with
  | free => rfl
  | occupied m => rfl
  | reserved q c => by_cases hq : q = p <;> simp [RxSlot.freeIf, hq, h]

end FreePeer

end Sys2Proof.Machine
end

