-- ==== Sys2Proof/Laws/Port.lean ====
section
/-! SUPPORT. The host's side, said once: the bytes of the records as the statements write them (section 10.2), the operand
forms (R56, R71, R75), the bits of the summary and the level of ATTN (R139, R149), what a TAKE or PEEK shows (R57), and
which slot a CANCEL finds (R75). -/

namespace Sys2Proof.Machine

/-! ## Bytes -/

/-- A 16-bit field's two bytes, from its number (R137). -/
theorem bytesOf16_eq (x : BitVec 16) : bytesOf16 x = twoBytes x.toNat := by
  simp only [bytesOf16, twoBytes, highByte, lowByte]
  congr 1
  apply BitVec.eq_of_toNat_eq
  simp [BitVec.toNat_ofNat, Nat.shiftRight_eq_div_pow]

theorem bytesOf16_ofNat (n : Nat) : bytesOf16 (BitVec.ofNat 16 n) = twoBytes n := by
  rw [bytesOf16_eq]
  simp only [twoBytes, BitVec.toNat_ofNat]
  congr 1
  · apply BitVec.eq_of_toNat_eq; simp [BitVec.toNat_ofNat]; omega
  · congr 1; apply BitVec.eq_of_toNat_eq; simp [BitVec.toNat_ofNat]

/-- The take header (R58). -/
theorem header_eq (m : MsgRecord) (remaining : Nat) : m.header remaining = headerOf m remaining := by
  simp only [MsgRecord.header, takeHeader, headerOf, byteOf, bytesOf16_ofNat]

/-- The completion record (R79). -/
theorem completionRecord_eq (s : State) : s.tx.completionRecord = s.reportOf := by
  funext i
  simp only [TransmitUnit.completionRecord, State.reportOf]
  cases look s.tx.pool i with
  | free => rfl
  | held r => simp only [TxRecord.completionRecord]; cases r.state <;> simp [bytesOf16_eq, byteOf]

/-- The status record's flag byte (R144). -/
theorem faults_byte_eq (f : FaultFlags) :
    f.byte = BitVec.ofNat 8 (f.duplicateStation.toNat + 2 * f.lineFault.toNat + 4 * f.creditOverrun.toNat) := by
  obtain ⟨a, b, c⟩ := f
  cases a <;> cases b <;> cases c <;> rfl

/-! ## Operands -/

theorem stationOf_ofNat : ∀ p : Station, stationOf (BitVec.ofNat 8 p.val) = some p := by decide
theorem classOf_ofNat : ∀ c : Cls, classOf (BitVec.ofNat 8 c.val) = some c := by decide

theorem stationOf_some {b : Byte} {p : Station} (h : b.toNat = p.val) : stationOf b = some p := by
  unfold stationOf
  rw [dif_pos (by omega)]
  congr 1
  exact Fin.ext h

theorem stationOf_none {b : Byte} (h : 16 ≤ b.toNat) : stationOf b = none := by
  unfold stationOf
  rw [dif_neg (by omega)]

theorem classChoice_named {b : Byte} {c : Cls} (h : b.toNat = c.val) : classChoice b = .named c := by
  unfold classChoice
  rw [dif_pos (by omega)]
  congr 1
  exact Fin.ext h

theorem classChoice_any : classChoice 0xFF = .any := by decide

theorem classChoice_outOfRange {b : Byte} (h1 : 4 ≤ b.toNat) (h2 : b.toNat ≤ 0xFE) : classChoice b = .outOfRange := by
  unfold classChoice
  rw [dif_neg (by omega), if_neg (by rintro rfl; simp at h2)]

/-- The low nibble of a byte, as a number (R167). -/
theorem lowNibble_eq (b : Byte) : lowNibble b = b.toNat % 16 := by simp [lowNibble]

/-! ## The summary and ATTN (R139, R149) -/

theorem bits_of_flags : ∀ (a b c d e f g h : Bool) (k : Fin 8),
    [a, b, c, d, e, f, g, h][k.val]? =
      some ((BitVec.ofBool a ++ BitVec.ofBool b ++ BitVec.ofBool c ++ BitVec.ofBool d ++ BitVec.ofBool e ++
        BitVec.ofBool f ++ BitVec.ofBool g ++ BitVec.ofBool h).getMsbD k.val) := by decide +kernel

/-- Each condition stands at its bit of the summary. -/
theorem summary_bits (s : State) (k : Fin 8) : s.conditions[k.val]? = some (s.summary.getMsbD k.val) := by
  rw [State.summary, ← bits_of_flags]
  rfl

/-- ATTN's level, position by position. -/
theorem attnLevel_iff (s : State) :
    s.attnLevel = true ↔ ∃ k : Fin 8, s.conditions[k.val]? = some true ∧ s.control.mask.getMsbD k.val = true := by
  simp only [summary_bits, State.attnLevel, decide_eq_true_eq, ne_eq, Option.some.injEq]
  constructor
  · intro h
    by_contra hn
    apply h
    apply BitVec.eq_of_getMsbD_eq
    intro i hi
    simp only [BitVec.getMsbD_and]
    have := not_exists.mp hn ⟨i, hi⟩
    simp at this ⊢
    intro h1
    simpa using this h1
  · rintro ⟨k, h1, h2⟩ h
    have : (s.summary &&& s.control.mask).getMsbD k.val = true := by simp [BitVec.getMsbD_and, h1, h2]
    rw [h] at this
    simp at this

/-! ## What a TAKE or PEEK shows (R57) -/

section Shown
variable {rx : ReceiveUnit}

/-- The class byte of a TAKE or PEEK that shows class `c`: the class, or ANY with every lower queue empty. -/
theorem shown_head {b : Byte} {c : Cls} {i : RxIx} {rest : List RxIx} {m : MsgRecord}
    (hb : b.toNat = c.val ∨ b = 0xFF ∧ (∀ d : Cls, d < c → look rx.queues d = []))
    (hq : look rx.queues c = i :: rest) (hp : look rx.pool i = .occupied m) :
    classChoice b ≠ .outOfRange ∧ rx.shown (classChoice b) = some (c, i, m, rest.length) := by
  have hm : rx.message i = some m := by simp [ReceiveUnit.message, hp]
  obtain hb | ⟨rfl, hl⟩ := hb
  · rw [classChoice_named hb]
    exact ⟨by simp, by simp [ReceiveUnit.shown, ReceiveUnit.chosen, hq, hm]⟩
  · rw [classChoice_any]
    have hc : rx.chosen .any = some c := by
      have h4 : c = 0 ∨ c = 1 ∨ c = 2 ∨ c = 3 := by fin_cases c <;> simp
      simp only [ReceiveUnit.chosen]
      obtain rfl | rfl | rfl | rfl := h4 <;> simp [classes, hq, hl]
    exact ⟨by simp, by simp [ReceiveUnit.shown, hc, hq, hm]⟩

theorem shown_nothing {b : Byte}
    (hb : (∃ c : Cls, b.toNat = c.val ∧ look rx.queues c = []) ∨ b = 0xFF ∧ (∀ c : Cls, look rx.queues c = [])) :
    classChoice b ≠ .outOfRange ∧ rx.shown (classChoice b) = none := by
  obtain ⟨c, hb, hq⟩ | ⟨rfl, hl⟩ := hb
  · rw [classChoice_named hb]
    exact ⟨by simp, by simp [ReceiveUnit.shown, ReceiveUnit.chosen, hq]⟩
  · rw [classChoice_any]
    exact ⟨by simp, by simp [ReceiveUnit.shown, ReceiveUnit.chosen, hl]⟩

end Shown

/-! ## Which slot -/

/-- A FREE transmit slot is found where there is one. -/
theorem freeSlot_some {tx : TransmitUnit} (h : ∃ i : TxIx, look tx.pool i = .free) :
    ∃ i : TxIx, tx.freeSlot = some i ∧ look tx.pool i = .free := by
  cases hh : tx.freeSlot with
  | none =>
    obtain ⟨i, hi⟩ := h
    have := findIx_none.mp hh i
    simp [hi, TxSlot.isFree] at this
  | some i =>
    refine ⟨i, rfl, ?_⟩
    have := findIx_some hh
    revert this
    cases look tx.pool i <;> simp [TxSlot.isFree]

theorem freeSlot_none {tx : TransmitUnit} (h : ¬∃ i : TxIx, look tx.pool i = .free) : tx.freeSlot = none := by
  apply findIx_none.mpr
  intro i
  have := not_exists.mp h i
  revert this
  cases look tx.pool i <;> simp [TxSlot.isFree]

/-- The best of a list by submission order is in it, and none of it is earlier. -/
theorem earliest_spec (l : List (TxIx × TxRecord)) (b : Option (TxIx × TxRecord)) (x : TxIx × TxRecord)
    (h : l.foldl (fun best x => some (match best with | none => x | some b => earlier b x)) b = some x) :
    (x ∈ l ∨ b = some x) ∧ (∀ y ∈ l, x.2.order ≤ y.2.order) ∧ ∀ y, b = some y → x.2.order ≤ y.2.order := by
  induction l generalizing b with
  | nil =>
    simp only [List.foldl_nil] at h
    subst h
    simp
  | cons a l ih =>
    simp only [List.foldl_cons] at h
    cases b with
    | none =>
      obtain ⟨h1, h2, h3⟩ := ih _ h
      have h4 := h3 a rfl
      refine ⟨?_, ?_, by simp⟩
      · obtain h1 | h1 := h1
        · exact .inl (by simp [h1])
        · simp only [Option.some.injEq] at h1; exact .inl (by simp [h1])
      · intro y hy
        obtain rfl | hy := List.mem_cons.mp hy
        · exact h4
        · exact h2 y hy
    | some b =>
      obtain ⟨h1, h2, h3⟩ := ih _ h
      have h4 : x.2.order ≤ (earlier b a).2.order := h3 _ rfl
      have he : earlier b a = a ∧ a.2.order < b.2.order ∨ earlier b a = b ∧ b.2.order ≤ a.2.order := by
        unfold earlier
        split
        · exact .inl ⟨rfl, by assumption⟩
        · exact .inr ⟨rfl, by omega⟩
      refine ⟨?_, ?_, ?_⟩
      · obtain h1 | h1 := h1
        · exact .inl (by simp [h1])
        · simp only [Option.some.injEq] at h1
          obtain ⟨he, _⟩ | ⟨he, _⟩ := he
          · left; rw [he] at h1; simp [h1]
          · right; rw [he] at h1; simp [h1]
      · intro y hy
        obtain rfl | hy := List.mem_cons.mp hy
        · obtain ⟨he, hlt⟩ | ⟨he, hlt⟩ := he <;> rw [he] at h4 <;> omega
        · exact h2 y hy
      · intro y hy
        simp only [Option.some.injEq] at hy
        subst hy
        obtain ⟨he, hlt⟩ | ⟨he, hlt⟩ := he <;> rw [he] at h4 <;> omega

theorem earliest_none (l : List (TxIx × TxRecord)) (b : Option (TxIx × TxRecord))
    (h : l.foldl (fun best x => some (match best with | none => x | some b => earlier b x)) b = none) :
    l = [] ∧ b = none := by
  induction l generalizing b with
  | nil => exact ⟨rfl, h⟩
  | cons a l ih =>
    simp only [List.foldl_cons] at h
    have := (ih _ h).2
    simp at this

/-- The QUEUED slots with a host tag and destination. -/
theorem mem_queuedSlots {tx : TransmitUnit} {hostTag : BitVec 16} {p : Station} {x : TxIx × TxRecord} :
    x ∈ (List.finRange Config.txSlots).filterMap (fun i =>
        (tx.slot i).bind fun r => if r.named hostTag p ∧ r.state = .queued then some (i, r) else none) ↔
      look tx.pool x.1 = .held x.2 ∧ x.2.hostTag = hostTag ∧ x.2.destination = p ∧ x.2.state = .queued := by
  obtain ⟨i, r⟩ := x
  simp only [List.mem_filterMap, List.mem_finRange, true_and, Option.bind_eq_some_iff, slot_iff]
  constructor
  · rintro ⟨j, u, hu, h⟩
    split at h
    · rename_i hn
      simp only [Option.some.injEq, Prod.mk.injEq] at h
      obtain ⟨rfl, rfl⟩ := h
      simp only [TxRecord.named, decide_eq_true_eq] at hn
      exact ⟨hu, hn.1.1, hn.1.2, hn.2⟩
    · cases h
  · rintro ⟨h1, h2, h3, h4⟩
    exact ⟨i, r, h1, by simp [TxRecord.named, h2, h3, h4]⟩

/-- The slot a CANCEL completes: QUEUED, with its host tag and destination, and earliest in submission order (R75). -/
theorem oldestQueued_some {tx : TransmitUnit} {hostTag : BitVec 16} {p : Station} {x : TxIx × TxRecord}
    (h : tx.oldestQueued hostTag p = some x) :
    (look tx.pool x.1 = .held x.2 ∧ x.2.hostTag = hostTag ∧ x.2.destination = p ∧ x.2.state = .queued) ∧
      ∀ (j : TxIx) (u : TxRecord), look tx.pool j = .held u → u.hostTag = hostTag → u.destination = p →
        u.state = .queued → x.2.order ≤ u.order := by
  obtain ⟨h1, h2, _⟩ := earliest_spec _ _ _ h
  refine ⟨?_, fun j u hj ht hd hs => h2 (j, u) (mem_queuedSlots.mpr ⟨hj, ht, hd, hs⟩)⟩
  obtain h1 | h1 := h1
  · exact mem_queuedSlots.mp h1
  · cases h1

theorem oldestQueued_none {tx : TransmitUnit} {hostTag : BitVec 16} {p : Station} :
    tx.oldestQueued hostTag p = none ↔
      ∀ (j : TxIx) (u : TxRecord), look tx.pool j = .held u → u.hostTag = hostTag → u.destination = p →
        u.state ≠ .queued := by
  constructor
  · intro h j u hj ht hd hs
    have := (earliest_none _ _ h).1
    have hm := (mem_queuedSlots (x := (j, u))).mpr ⟨hj, ht, hd, hs⟩
    rw [this] at hm
    cases hm
  · intro h
    cases ho : tx.oldestQueued hostTag p with
    | none => rfl
    | some x =>
      obtain ⟨⟨h1, h2, h3, h4⟩, _⟩ := oldestQueued_some ho
      exact absurd h4 (h x.1 x.2 h1 h2 h3)

/-- A SENDING or IN_FLIGHT slot with a host tag and destination. -/
theorem underWay_iff {tx : TransmitUnit} {hostTag : BitVec 16} {p : Station} :
    tx.underWay hostTag p = true ↔
      ∃ (i : TxIx) (r : TxRecord), look tx.pool i = .held r ∧ r.hostTag = hostTag ∧ r.destination = p ∧
        (r.state = .sending ∨ ∃ q : Count, r.state = .inFlight q) := by
  have hs : ∀ st : TxState, st.isUnderWay = true ↔ st = .sending ∨ ∃ q : Count, st = .inFlight q := by
    intro st; cases st <;> simp [TxState.isUnderWay]
  simp only [TransmitUnit.underWay, List.any_eq_true, List.mem_finRange, true_and]
  constructor
  · rintro ⟨i, hi⟩
    cases hr : tx.slot i with
    | none => simp [hr] at hi
    | some r =>
      simp only [hr, Bool.and_eq_true, TxRecord.named, decide_eq_true_eq, hs] at hi
      exact ⟨i, r, (slot_iff _ _ _).mp hr, hi.1.1, hi.1.2, hi.2⟩
  · rintro ⟨i, r, h1, h2, h3, h4⟩
    exact ⟨i, by simp [(slot_iff _ _ _).mpr h1, TxRecord.named, h2, h3, (hs _).mpr h4]⟩

end Sys2Proof.Machine
end

