-- ==== Sys2Proof/Laws/Sessions.lean ====
section
/-! SUPPORT. What the Session Unit's shared operations do to every block, said once in the relations of Safety: a fresh
JOINING (R9), an open (R10), a close (R11 to R13), a restart, and the closes of all entries (R14). -/

namespace Sys2Proof.Machine

/-! ## Claims -/

@[simp] theorem putPut {α : Type} {n : Nat} (v : Vector α n) (i : Fin n) (a b : α) : put (put v i a) i b = put v i b := by
  apply table_ext; intro j; simp only [look_put]; split <;> rfl

/-- The arbiter's share of a close (R13). -/
theorem closePeer_claims (a : Arbiter) (p : Station) (e : PeerEntry) (reason : CloseReason) :
    a.closePeer p e reason =
      { a with
        joins := put a.joins p false
        tallies := put a.tallies p false
        severs :=
          match (closeSever reason e.state).map e.severFor with
          | some c => put a.severs p (some c)
          | none => a.severs
        inHand := a.inHand.map fun h =>
          if h.kind = .join p ∨ h.kind = .tally p then { h with withdrawn := true } else h } := by
  have hm : ((a.withdrawTally p).withdrawJoin p).inHand = a.inHand.map fun h =>
      if h.kind = .join p ∨ h.kind = .tally p then { h with withdrawn := true } else h := by
    simp only [Arbiter.withdrawJoin, Arbiter.withdrawTally, Arbiter.withdrawHand, Option.map_map]
    congr 1
    funext h
    simp only [Function.comp]
    by_cases h1 : h.kind = .tally p
    · simp [h1]
    · by_cases h2 : h.kind = .join p <;> simp [h1, h2]
  simp only [Arbiter.closePeer]
  cases closeSever reason e.state with
  | none =>
    simp only [Option.map_none]
    rw [← hm]; rfl
  | some r =>
    simp only [Option.map_some]
    rw [← hm]; rfl

/-! ## A close other than RESTART -/

/-- Every block's share of a close other than RESTART (R11 to R13). -/
theorem closeSession_closes (s : State) {reason : CloseReason} (hr : reason ≠ .restart) (p : Station) :
    Closes reason (closeDestination reason (s.entry p).state)
      ((closeSever reason (s.entry p).state).map (s.entry p).severFor) p s (s.closeSession reason p) := by
  refine ⟨⟨entry_put (s := s) (by rw [closeSession_session]; rfl),
    othersKeep_put (e := (s.entry p).closed reason s.record.holdDownMs) (by rw [closeSession_session])⟩, ⟨?_, ?_, ?_⟩,
    closePeer_closes hr (by simp), ?_, portNotes_of (by simp [onCommand_noteChanged])⟩
  · intro i; rw [closeSession_rx]; exact look_freePeer s.rx p i
  · intro q c; rw [closeSession_rx]; exact look2_freePeer_records s.rx p q c
  · simp
  · cases h : closeSever reason (s.entry p).state <;> simp [ClaimsClose, closeSession_arb, closePeer_claims, h]

/-- A close reaches neither the station's control, its line, nor its draws. -/
theorem closeSession_only (s : State) (reason : CloseReason) (p : Station) :
    OnlyWrites [.session, .rx, .tx, .arb, .port] s (s.closeSession reason p) := by
  simp [OnlyWrites]

/-! ## Fresh JOINING, and a restart -/

/-- A fresh JOINING of `p` (R9). -/
theorem freshJoining_joins (s : State) (p : Station) (peerTag : Tag) :
    FreshlyJoins p peerTag (s.entry p) s (s.freshJoining p peerTag) ∧
      (s.freshJoining p peerTag).arb = { s.arb with joins := put s.arb.joins p true } :=
  ⟨⟨entry_put (s := s) (by rw [freshJoining_session]; rfl), othersKeep_put (by rw [freshJoining_session]), rfl⟩, rfl⟩

/-- Every block's share of a RESTART close and the fresh JOINING that follows it (R9, R11, R13, R107). -/
theorem restartSession_restarts (s : State) (p : Station) (peerTag : Tag)
    (hs : ∀ i ∈ s.tx.sending, ∀ c : Cls, i ∉ look2 s.tx.flights p c) :
    Restarts p peerTag s (s.restartSession p peerTag) := by
  have hses : (s.restartSession p peerTag).session =
      put s.session p (((s.entry p).closed .restart s.record.holdDownMs).freshJoining s.drawnTag peerTag
        s.record.joinInterval) := by
    have e : (s.closeSession .restart p).entry p = (s.entry p).closed .restart s.record.holdDownMs :=
      entry_put (s := s) (by rw [closeSession_session])
    have e2 : (s.closeSession .restart p).record = s.record := rfl
    have e3 : (s.closeSession .restart p).drawnTag = s.drawnTag := rfl
    simp only [State.restartSession, freshJoining_session, closeSession_session, e, e2, e3, putPut]
  refine ⟨⟨entry_put (s := s) (by rw [hses]; rfl), othersKeep_put hses, rfl⟩, ⟨?_, ?_, rfl⟩,
    closePeer_restarts hs rfl, ?_, ?_⟩
  · intro i; exact look_freePeer s.rx p i
  · intro q c; exact look2_freePeer_records s.rx p q c
  · simp only [State.restartSession, freshJoining_arb, closeSession_arb, closePeer_claims, closeSever, Option.map_none,
      Arbiter.claimJoin, putPut]
  · exact portNotes_of (by simp [State.restartSession, onCommand_noteChanged])

/-! ## An open -/

/-- Every block's share of an open (R10, R35), where the FREE slots suffice (R31). -/
theorem openSession_opens (s : State) (p : Station)
    (h : (classes.map (s.toReserve p)).sum ≤ countIn RxSlot.isFree s.rx.pool) :
    EntryOpens p (s.entry p).peerTag s (s.openSession p) ∧ ReservationMade p s (s.openSession p) ∧
      OpenClaims p s (s.openSession p) ∧ PortNotes (fun _ => false) (· = p) s (s.openSession p) := by
  have hr := reserve_spec p s.record.grants s.rx h
  refine ⟨⟨entry_put (s := s) (by rw [openSession_session]; rfl), othersKeep_put (by rw [openSession_session])⟩,
    ⟨hr.1, hr.2.1, hr.2.2.2.1, hr.2.2.2.2.2⟩, ?_, portNotes_of (by simp [onCommand_noteChanged])⟩
  simp only [OpenClaims, openSession_arb, Arbiter.withdrawJoin, Arbiter.withdrawHand, Arbiter.claimTally]

/-! ## Relations carried over the heard update and ATTN -/

/-- Driving ATTN leaves the rest of the port. -/
theorem portBecomes_driveAttn {h : HostPort} {t : State} (ht : PortBecomes h t) : PortBecomes h t.driveAttn :=
  congrArg (fun x : HostPort => { x with attn := t.attnLevel }) ht

section Carry
variable {s t : State} {p : Station}

theorem closes_afterFrame {reason : CloseReason} {dest : PeerState} {sever : Option SeverClaim}
    (h : Closes reason dest sever p (s.afterFrame p) t) : Closes reason dest sever p s t := by
  obtain ⟨⟨h1, h2⟩, h3, h4, h5, h6⟩ := h
  have hj : (s.heardEntry p).joinAttempts = (s.entry p).joinAttempts := by
    unfold State.heardEntry; split <;> rfl
  refine ⟨⟨by simpa [hj] using h1, fun q hq => by rw [h2 q hq, afterFrame_entry_ne _ hq]⟩, ?_, ?_, ?_, ?_⟩
  · simpa [ReservationsFreed] using h3
  · simpa [SendSideCloses, Completed, OtherSendSidesKeep, State.doomed] using h4
  · simpa [ClaimsClose] using h5
  · simpa [PortNotes, PortBecomes] using h6

theorem restarts_afterFrame {peerTag : Tag} (h : Restarts p peerTag (s.afterFrame p) t) : Restarts p peerTag s t := by
  obtain ⟨⟨h1, h2, h3⟩, h4, h5, h6, h7⟩ := h
  refine ⟨⟨by simpa using h1, fun q hq => by rw [h2 q hq, afterFrame_entry_ne _ hq], by simpa using h3⟩, ?_, ?_, ?_, ?_⟩
  · simpa [ReservationsFreed] using h4
  · simpa [SendSideRestarts, Completed, OtherSendSidesKeep, State.flying] using h5
  · simpa using h6
  · simpa [PortNotes, PortBecomes] using h7

theorem restarts_driveAttn {peerTag : Tag} (h : Restarts p peerTag s t) : Restarts p peerTag s t.driveAttn := by
  obtain ⟨h1, h3, h4, h5, h6⟩ := h
  exact ⟨h1, h3, h4, h5, portBecomes_driveAttn h6⟩

theorem closes_driveAttn {reason : CloseReason} {dest : PeerState} {sever : Option SeverClaim}
    (h : Closes reason dest sever p s t) : Closes reason dest sever p s t.driveAttn := by
  obtain ⟨h1, h3, h4, h5, h6⟩ := h
  exact ⟨h1, h3, h4, h5, portBecomes_driveAttn h6⟩

end Carry

/-! ## The closes of all entries (R14) -/

/-- A close keeps whom each message is for. -/
theorem isFor_closeSession (s : State) {reason : CloseReason} (hr : reason ≠ .restart) (p q : Station) (c : Cls)
    (i : TxIx) : (s.closeSession reason p).tx.isFor q c i = s.tx.isFor q c i := by
  obtain ⟨⟨_, h2, h3⟩, _⟩ := closePeer_closes (t := s.closeSession reason p) (s := s) (p := p) hr rfl
  apply isFor_of_change (f := .finished .dropped reason) (fun r => ⟨rfl, rfl⟩)
  by_cases hi : i ∈ s.doomed p
  · cases hl : look s.tx.pool i with
    | free =>
      have : look (s.closeSession reason p).tx.pool i = .free := by
        have hd := (dropClasses_spec p reason classes (by decide) s.tx).2.1 i
        have e : (s.closeSession reason p).tx.pool = (classes.foldl (TransmitUnit.dropClass p reason) s.tx).pool := by
          simp [TransmitUnit.closePeer, TransmitUnit.closeSlots, hr, TransmitUnit.detach, TransmitUnit.zeroPeer]
        rw [e, hd, hl]; simp
      left; rw [this]
    | held r =>
      right
      rw [h2 i hi r ((slot_iff _ _ _).mpr hl)]
      rfl
  · left; exact h3 i hi (by simp)

/-- The slots of a close of `q` are not touched by a close of another peer. -/
theorem doomed_closeSession (s : State) {reason : CloseReason} (hr : reason ≠ .restart) {p q : Station} (h : q ≠ p) :
    (s.closeSession reason p).doomed q = s.doomed q := by
  obtain ⟨_, _, _, h4, h5, _, _⟩ := closePeer_closes (t := s.closeSession reason p) (s := s) (p := p) hr rfl
  obtain ⟨hq, hf, _⟩ := h4 q h
  simp only [State.doomed]
  congr 1
  funext c
  have e1 : look2 (s.closeSession reason p).tx.flights q c = look2 s.tx.flights q c := by simp only [look2, hf]
  have e2 : look2 (s.closeSession reason p).tx.queues q c = look2 s.tx.queues q c := by simp only [look2, hq]
  have e3 : (s.closeSession reason p).tx.sending.filter ((s.closeSession reason p).tx.isFor q c) =
      s.tx.sending.filter (s.tx.isFor q c) := by
    rw [show (s.closeSession reason p).tx.isFor q c = s.tx.isFor q c from
      funext fun i => isFor_closeSession s hr p q c i, h5]
    cases s.tx.sending with
    | none => rfl
    | some i =>
      cases hi : s.tx.isFor q c i with
      | false =>
        cases hp : (classes.any fun d => s.tx.isFor p d i) <;> simp [Option.filter, hi, hp]
      | true =>
        have hn : (classes.any fun d => s.tx.isFor p d i) = false := by
          simp only [TransmitUnit.isFor] at hi ⊢
          cases hs : s.tx.slot i with
          | none => simp
          | some r =>
            simp only [hs, Option.any_some, Bool.and_eq_true, decide_eq_true_eq] at hi
            simp [hi.1, h]
        simp [Option.filter, hi, hn]
  rw [e1, e2, e3]

/-- Every peer of `ps`, each once, closed in turn with a reason other than RESTART: every block's share. -/
theorem closes_spec {reason : CloseReason} (hr : reason ≠ .restart) (ps : List Station) (hn : ps.Nodup) (s : State) :
    let t := ps.foldl (fun t p => t.closeSession reason p) s
    (∀ q : Station, t.entry q =
      if q ∈ ps then (s.entry q).closed reason s.record.holdDownMs else s.entry q) ∧
    (∀ i : RxIx, look t.rx.pool i =
      if ∃ p ∈ ps, ∃ c : Cls, look s.rx.pool i = .reserved p c then .free else look s.rx.pool i) ∧
    (∀ (q : Station) (c : Cls), look2 t.rx.records q c =
      if q ∈ ps then ⟨0, 0, 0, (look2 s.rx.records q c).occupied⟩ else look2 s.rx.records q c) ∧
    t.rx.queues = s.rx.queues ∧
    t.tx.completions = s.tx.completions ++ ps.flatMap s.doomed ∧
    (∀ i : TxIx, ∀ r ∈ s.tx.slot i, look t.tx.pool i =
      if i ∈ ps.flatMap s.doomed then .held (r.finished .dropped reason) else .held r) ∧
    (∀ i : TxIx, look s.tx.pool i = .free → look t.tx.pool i = .free) ∧
    (∀ (q : Station) (c : Cls),
      look2 t.tx.queues q c = (if q ∈ ps then [] else look2 s.tx.queues q c) ∧
      look2 t.tx.flights q c = (if q ∈ ps then [] else look2 s.tx.flights q c) ∧
      look2 t.tx.counters q c = (if q ∈ ps then .zero else look2 s.tx.counters q c)) ∧
    (∀ q : Station,
      look t.tx.ackTimers q = (if q ∈ ps then .stopped else look s.tx.ackTimers q) ∧
      look t.tx.retries q = (if q ∈ ps then 0 else look s.tx.retries q)) ∧
    t.tx.tie = s.tx.tie.filter (fun k => decide (k.peer ∉ ps)) ∧ t.tx.nextOrder = s.tx.nextOrder ∧
    t.tx.sending = s.tx.sending.filter (fun i => !ps.any fun p => classes.any fun c => s.tx.isFor p c i) ∧
    (∀ q : Station,
      look t.arb.joins q = (if q ∈ ps then false else look s.arb.joins q) ∧
      look t.arb.tallies q = (if q ∈ ps then false else look s.arb.tallies q) ∧
      look t.arb.severs q =
        if q ∈ ps then ((closeSever reason (s.entry q).state).map (s.entry q).severFor).or (look s.arb.severs q)
        else look s.arb.severs q) ∧
    t.arb =
      { s.arb with joins := t.arb.joins, tallies := t.arb.tallies, severs := t.arb.severs, inHand := t.arb.inHand } ∧
    t.arb.inHand =
      s.arb.inHand.map (fun h =>
        if (∃ p ∈ ps, h.kind = .join p ∨ h.kind = .tally p) then { h with withdrawn := true } else h) ∧
    t.port = s.port.noted (fun _ => false) (fun q => decide (q ∈ ps)) ∧
    t.control = s.control ∧ t.line = s.line ∧ t.draws = s.draws ∧ t.pending = s.pending := by
  induction ps generalizing s with
  | nil =>
    have hfo : ∀ {α : Type} (o : Option α), o.filter (fun _ => true) = o := by
      intro α o; cases o <;> rfl
    simp [hfo, slot_iff, noted_nothing]
  | cons p ps ih =>
    obtain ⟨hp, hn⟩ := List.nodup_cons.mp hn
    obtain ⟨⟨e1, e2⟩, ⟨r1, r2, r3⟩, ⟨⟨x1, x2, x3⟩, y1, ⟨z1, z2, z3⟩, o1, n1, n2, n3⟩, a1, q1⟩ :=
      closeSession_closes s hr p
    let u := s.closeSession reason p
    have hfor := isFor_closeSession s hr p
    have hdoom : ∀ q ∈ ps, u.doomed q = s.doomed q := by
      intro q hq
      exact doomed_closeSession s hr (fun e => hp (e ▸ hq))
    have hflat : ps.flatMap u.doomed = ps.flatMap s.doomed := by
      rw [List.flatMap, List.flatMap, List.map_congr_left hdoom]
    have hent : ∀ q : Station, q ≠ p → u.entry q = s.entry q := e2
    have hpool : ∀ i : TxIx, ∀ r ∈ s.tx.slot i, look u.tx.pool i =
        if i ∈ s.doomed p then .held (r.finished .dropped reason) else .held r := by
      intro i r hri
      split
      · rename_i hi; exact x2 i hi r hri
      · rename_i hi; rw [x3 i hi (by simp), (slot_iff _ _ _).mp hri]
    have hfree : ∀ i : TxIx, look s.tx.pool i = .free → look u.tx.pool i = .free := by
      intro i hi
      have hd := (dropClasses_spec p reason classes (by decide) s.tx).2.1 i
      have e : u.tx.pool = (classes.foldl (TransmitUnit.dropClass p reason) s.tx).pool := by
        simp [u, TransmitUnit.closePeer, TransmitUnit.closeSlots, hr, TransmitUnit.detach, TransmitUnit.zeroPeer]
      rw [e, hd, hi]; simp
    have hcon : u.control = s.control := rfl
    have hrec : u.record = s.record := rfl
    obtain ⟨i1, i2, i3, i4, i5, i6, i7, i8, i9, i10, i11, i12, i13, i14, i15, i16, i17, i18, i19, i20⟩ := ih hn u
    simp only [List.foldl_cons]
    refine ⟨?_, ?_, ?_, ?_, ?_, ?_, ?_, ?_, ?_, ?_, ?_, ?_, ?_, ?_, ?_, ?_, ?_, ?_, ?_, ?_⟩
    · intro q
      rw [i1]
      by_cases hq : q = p
      · subst hq
        have : u.entry q = (s.entry q).closed reason s.record.holdDownMs :=
          entry_put (s := s) (by simp only [u, closeSession_session])
        simp [hp, this]
      · simp [hq, hent q hq, hrec]
    · intro i
      have := r1 i
      rw [i2, this]
      by_cases hc : ∃ c : Cls, look s.rx.pool i = .reserved p c
      · have hR : ∃ q ∈ p :: ps, ∃ c : Cls, look s.rx.pool i = .reserved q c := ⟨p, by simp, hc⟩
        rw [if_pos hR]
        simp [hc]
      · simp only [hc, if_false, List.mem_cons, exists_eq_or_imp, false_or]
    · intro q c
      rw [i3, r2]
      by_cases hq : q = p
      · subst hq; simp [hp]
      · simp [hq]
    · rw [i4]; exact r3
    · rw [i5, hflat, x1]; simp
    · intro i r hri
      have hu := hpool i r hri
      by_cases hi : i ∈ s.doomed p
      · rw [if_pos hi] at hu
        rw [i6 i _ ((slot_iff _ _ _).mpr hu), hflat]
        simp [hi]
      · rw [if_neg hi] at hu
        rw [i6 i _ ((slot_iff _ _ _).mpr hu), hflat]
        simp [hi]
    · intro i hi
      exact i7 i (hfree i hi)
    · intro q c
      obtain ⟨b1, b2, b3⟩ := i8 q c
      rw [b1, b2, b3]
      by_cases hq : q = p
      · subst hq
        have h1 : look2 u.tx.queues q c = [] := (y1 c).1
        have h2 : look2 u.tx.flights q c = [] := (y1 c).2
        have h3 : look2 u.tx.counters q c = .zero := z1 c
        simp [hp, h1, h2, h3]
      · obtain ⟨c1, c2, c3, _, _⟩ := o1 q hq
        have h1 : look2 u.tx.queues q c = look2 s.tx.queues q c := by simp only [u, look2, c1]
        have h2 : look2 u.tx.flights q c = look2 s.tx.flights q c := by simp only [u, look2, c2]
        have h3 : look2 u.tx.counters q c = look2 s.tx.counters q c := by simp only [u, look2, c3]
        simp [hq, h1, h2, h3]
    · intro q
      obtain ⟨b1, b2⟩ := i9 q
      rw [b1, b2]
      by_cases hq : q = p
      · subst hq
        have h1 : look u.tx.ackTimers q = .stopped := z2
        have h2 : look u.tx.retries q = 0 := z3
        simp [hp, h1, h2]
      · obtain ⟨_, _, _, c4, c5⟩ := o1 q hq
        have h1 : look u.tx.ackTimers q = look s.tx.ackTimers q := c4
        have h2 : look u.tx.retries q = look s.tx.retries q := c5
        simp [hq, h1, h2]
    · have h1 : u.tx.tie = s.tx.tie.filter (·.peer ≠ p) := n2
      rw [i10, h1]
      cases s.tx.tie with
      | none => rfl
      | some k => by_cases hk : k.peer = p <;> simp [Option.filter, hk]
    · rw [i11]; exact n3
    · have h1 : u.tx.sending = s.tx.sending.filter (fun i => !classes.any fun c => s.tx.isFor p c i) := n1
      have h2 : ∀ i, (ps.any fun q => classes.any fun c => u.tx.isFor q c i) =
          ps.any fun q => classes.any fun c => s.tx.isFor q c i := by
        intro i; simp only [u, hfor]
      rw [i12, h1]
      simp only [h2]
      cases s.tx.sending with
      | none => rfl
      | some i => cases hb : (classes.any fun c => s.tx.isFor p c i) <;> simp [Option.filter, hb]
    · intro q
      obtain ⟨b1, b2, b3⟩ := i13 q
      have ha : u.arb = _ := a1
      rw [b1, b2, b3, ha]
      by_cases hq : q = p
      · subst hq
        simp only [hp, if_false, look_put_self, List.mem_cons, true_or, if_true]
        refine ⟨trivial, trivial, ?_⟩
        cases (closeSever reason (s.entry q).state) <;> simp
      · simp only [List.mem_cons, hq, false_or, look_put_ne _ _ (Ne.symm hq), hent q hq, true_and]
        cases (closeSever reason (s.entry p).state) <;> simp [look_put_ne _ _ (Ne.symm hq)]
    · have ha : u.arb = _ := a1
      rw [i14, ha]
    · have ha : u.arb = _ := a1
      rw [i15, ha]
      simp only [Option.map_map]
      congr 1
      funext h
      simp only [Function.comp, List.mem_cons, exists_eq_or_imp]
      by_cases hk : h.kind = .join p ∨ h.kind = .tally p
      · simp [hk]
      · simp [hk]
    · have hq' : u.port = s.port.noted (fun _ => false) (· = p) := onCommand_noteChanged s.port p
      rw [i16, hq', noted_noted]
      congr 1
      funext q
      simp [eq_comm]
    · rw [i17]; rfl
    · rw [i18]; rfl
    · rw [i19]; rfl
    · rw [i20]; rfl

/-- The closes of all entries are closes of exactly the entries that are not ABSENT, each once, in an order that the manual
leaves open (assumption log 3). -/
theorem closeAll_eq (s : State) (reason : CloseReason) :
    ∃ ps : List Station, ps.Nodup ∧ (∀ p : Station, p ∈ ps ↔ (s.entry p).state ≠ .absent) ∧
      s.closeAll reason = ps.foldl (fun t p => t.closeSession reason p) { s with draws := s.draws + 1 } := by
  refine ⟨inDrawnOrder s.draws Fin.val s.liveEntries, ?_, ?_, rfl⟩
  · exact (inDrawnOrder_perm _ _ _).nodup_iff.mpr (List.Nodup.filter _ (by decide))
  · intro p
    simp [State.liveEntries]

/-- What the closes of all entries come to, LEFT or MUTED. -/
theorem closeAll_allClose (s : State) {reason : CloseReason} (hr : reason = .left ∨ reason = .muted) :
    AllClose reason s (s.closeAll reason) := by
  obtain ⟨ps, hn, hm, he⟩ := closeAll_eq s reason
  have hne : reason ≠ .restart := by obtain rfl | rfl := hr <;> simp
  have hdest : ∀ x : PeerState, closeDestination reason x = .absent := by obtain rfl | rfl := hr <;> simp [closeDestination]
  obtain ⟨i1, i2, i3, i4, i5, i6, i7, i8, i9, i10, i11, i12, _⟩ := closes_spec hne ps hn { s with draws := s.draws + 1 }
  rw [← he] at i1 i2 i3 i4 i5 i6 i7 i8 i9 i10 i11 i12
  have hmem : ∀ (i : TxIx), i ∈ ps.flatMap s.doomed ↔ ∃ p : Station, (s.entry p).state ≠ .absent ∧ i ∈ s.doomed p := by
    intro i; simp [List.mem_flatMap, hm]
  refine ⟨?_, ?_, ?_, i4, ?_, ?_, i7, ⟨ps, hn, hm, i5⟩, ?_, ?_, i11⟩
  · intro p
    rw [i1 p]
    by_cases h : (s.entry p).state = .absent
    · rw [if_neg (by simp [hm, h]), if_pos h]; rfl
    · rw [if_pos ((hm p).mpr h), if_neg h]
      simp only [PeerEntry.closed, hdest, PeerEntry.reset]
      rfl
  · intro i
    rw [i2 i]
    show (if ∃ p ∈ ps, ∃ c : Cls, look s.rx.pool i = .reserved p c then RxSlot.free else look s.rx.pool i) = _
    cases hl : look s.rx.pool i with
    | free => simp
    | occupied m => simp
    | reserved p c => by_cases hp : (s.entry p).state = .absent <;> simp [hm, hp]
  · intro p c
    rw [i3 p c]
    by_cases h : (s.entry p).state = .absent
    · rw [if_neg (by simp [hm, h]), if_pos h]
    · rw [if_pos ((hm p).mpr h), if_neg h]
  · intro p
    have h8 := i8 p
    have h9 := i9 p
    by_cases h : (s.entry p).state = .absent
    · have hnot : p ∉ ps := by simp [hm, h]
      rw [if_pos h]
      simpa [hnot] using And.intro h8 h9
    · have hin := (hm p).mpr h
      rw [if_neg h]
      simp only [hin, if_true] at h8 h9
      exact ⟨fun c => ⟨(h8 c).1, (h8 c).2.1⟩, fun c => (h8 c).2.2, h9⟩
  · intro i r hi
    have h6 : look (s.closeAll reason).tx.pool i =
        if i ∈ ps.flatMap s.doomed then .held (r.finished .dropped reason) else .held r :=
      i6 i r ((slot_iff _ _ _).mpr hi)
    rw [h6]
    by_cases h : ∃ p : Station, (s.entry p).state ≠ .absent ∧ i ∈ s.doomed p
    · rw [if_pos ((hmem i).mpr h), if_pos h]; rfl
    · rw [if_neg (fun x => h ((hmem i).mp x)), if_neg h]
  · rw [i12]
    congr 1
    funext i
    congr 1
    rw [Bool.eq_iff_iff]
    simp [hm]
  · rw [i10]
    congr 1
    funext k
    simp [hm]

/-! ## MUTED (R158) -/

/-- Entering MUTED, on a line that neither contends nor transmits and with no frame in hand: every block's share. -/
theorem reportFault_mutes (s : State) (f : FaultName)
    (ha : s.control.station = .active ∨ s.control.station = .leaving)
    (h1 : s.line.state ≠ .contending) (h2 : s.line.state ≠ .transmitting) (h3 : s.arb.inHand = none) :
    Mutes f s (s.reportFault f) ∧ (s.reportFault f).line = { s.line with state := .silent, outbound := none } := by
  have hall := closeAll_allClose ((s.setFault f).setStation .muted) (reason := .muted) (.inr rfl)
  obtain ⟨ps, hn, hm, he⟩ := closeAll_eq ((s.setFault f).setStation .muted) .muted
  obtain ⟨_, _, _, _, _, _, _, _, _, _, _, _, _, i14, i15, i16, i17, i18, _, i20⟩ :=
    closes_spec (reason := .muted) (by simp) ps hn
      { (s.setFault f).setStation .muted with draws := ((s.setFault f).setStation .muted).draws + 1 }
  rw [← he] at i14 i15 i16 i17 i18 i20
  generalize hu : ((s.setFault f).setStation .muted).closeAll .muted = u at *
  have hline : u.line = s.line := i18
  have hrep : s.reportFault f = { u with
      arb := u.arb.mute
      line := { s.line with state := .silent, outbound := none } } := by
    have e : s.reportFault f = ({ u with arb := u.arb.mute } : State).goSilent := by
      rw [← hu]
      simp only [State.reportFault]
      obtain h | h := ha <;> simp only [h]
    rw [e]
    simp only [State.goSilent]
    have hl : ({ u with arb := u.arb.mute } : State).line.state = s.line.state := by simp only [hline]
    rw [hl]
    cases hs : s.line.state with
    | contending => exact absurd hs h1
    | transmitting => exact absurd hs h2
    | silent => simp [State.emptyBuffer, State.setLine, hline]
    | idle => simp [State.emptyBuffer, State.setLine, hline]
    | receiving ph => simp [State.emptyBuffer, State.setLine, hline]
  have hh : u.arb.inHand = none := by rw [i15]; simp [h3]
  rw [hrep]
  refine ⟨⟨i17, hall, ?_, rfl, ?_, i20⟩, rfl⟩
  · show u.arb.mute = _
    simp only [Arbiter.mute, hh, Option.map_none]
    rw [i14]
    rfl
  · apply portNotes_of
    show u.port = _
    have e : ((s.setFault f).setStation .muted).port = s.port.noted (· = f) (fun _ => false) :=
      onCommand_noteFault s.port f
    rw [i16]
    show HostPort.noted ((s.setFault f).setStation .muted).port _ _ = _
    rw [e, noted_noted]
    congr 1
    · funext n; simp
    · funext q; simp only [Bool.false_or]; exact decide_eq_decide.mpr (hm q)

end Sys2Proof.Machine
end

