-- ==== Sys2Proof/Tests/Slice0.lean ====
section
/-! SUPPORT. Tests: values worked out in the manual, each on one step from a small state; the checks of WellFormed on
ill-formed terms; and for every obligation with hypotheses a state and operands that meet them. -/

namespace Sys2Proof.Tests

set_option Elab.async false

open Sys2Proof.Machine

/-! ## Small states -/

/-- The state after a command. -/
def after (c : Instr) (s : State) : State :=
  match exec c s with
  | .next t => t
  | _ => s

/-- A valid record: own station 3, grants 2, 0, 0 and 1. -/
def record : ConfigRecord where
  ownStation := 3
  incarnation := 0x12
  bitRate := .one
  grants := #v[2, 0, 0, 1]
  retryLimit := 3
  ackTimeout := 10
  refreshInterval := 20
  silenceMultiple := 4
  joinInterval := 15
  joinAttempts := 5
  holdDown := 20

/-- The bytes of that record, with bits set above the fields that have some (R167). -/
def image : ConfigImage := ⟨0x33, 0x12, 0x01, 0xF2, 0, 0, 0xF1, 0x43, 10, 20, 0x14, 15, 0x25, 20⟩

/-- Configured, and nothing else. -/
def configured : State :=
  { State.reset with control := { State.reset.control with station := .configured, config := some record } }

/-- ACTIVE on an idle line, with every peer ABSENT. -/
def active : State :=
  { configured with
    control := { configured.control with station := .active }
    line := { configured.line with state := .idle } }

def opened2 : PeerEntry := ⟨.opened, 0x1201, 0x3401, 1, true, .none, .stopped, .stopped, .running 60, .running 9⟩
def joining5 : PeerEntry := ⟨.joining, 0x1202, 0x5505, 1, false, .none, .running 7, .stopped, .stopped, .stopped⟩
def lost7 : PeerEntry := ⟨.lost, 0, 0, 2, true, .silent, .stopped, .running 30, .stopped, .stopped⟩

def queuedTo2 : TxRecord := ⟨0x0A01, 2, 0, 1, [0xAA], 0, 2, .queued⟩
def flyingTo2 : TxRecord := ⟨0x0A02, 2, 0, 1, [0xBB], 1, 1, .inFlight 4⟩
def sentTo2 : TxRecord := ⟨0x0A03, 2, 0, 1, [], 1, 0, .done .sent .none⟩

/-- Sessions in three states, with something in every pool and queue: peer 2 OPEN with a message unread, one reserved slot
in classes 0 and 3, one message in flight and one queued; peer 5 JOINING; peer 7 LOST. -/
def busy : State :=
  { active with
    control := { active.control with tagCounter := 3 }
    session := put (put (put active.session 2 opened2) 5 joining5) 7 lost7
    rx :=
      { active.rx with
        pool := put (put (put active.rx.pool 0 (.occupied ⟨2, 0, 1, [7]⟩)) 1 (.reserved 2 0)) 2 (.reserved 2 3)
        records := put2 (put2 active.rx.records 2 0 ⟨1, 2, 1, 1⟩) 2 3 ⟨0, 1, 1, 0⟩
        queues := put active.rx.queues 0 [0] }
    tx :=
      { active.tx with
        pool := put (put (put active.tx.pool 0 (.held queuedTo2)) 1 (.held flyingTo2)) 2 (.held sentTo2)
        queues := put2 active.tx.queues 2 0 [0]
        flights := put2 active.tx.flights 2 0 [1]
        counters := put2 active.tx.counters 2 0 ⟨5, 4, 7, none⟩
        ackTimers := put active.tx.ackTimers 2 (.running 4)
        retries := put active.tx.retries 2 1
        completions := [2]
        nextOrder := 3 } }

/-- With the resend of the message in flight due. -/
def resendDue : State :=
  { busy with tx := { busy.tx with counters := put2 busy.tx.counters 2 0 ⟨5, 4, 7, some 4⟩ } }

/-- A transaction that has taken no command. -/
def fresh : Transaction := ⟨0x80, .none, []⟩

/-- With a transaction open that has taken `c`. -/
def inTxn (c : TxnCommand) (s : State) : State :=
  { s with port := { s.port with cs := .low, txn := some { fresh with command := c } } }

/-- With a transaction open that has taken no command. -/
def asked (s : State) : State := inTxn .none s

/-- Reading a frame of another station. -/
def hearing (s : State) : State := { s with line := { s.line with state := .receiving .frame } }

/-- Contending with the frame that a selection builds. -/
def contending (s : State) : State := after .frameBuild s

/-- Transmitting that frame. -/
def transmitting (s : State) : State := after .frameWon (contending s)

/-- LEAVING on an idle line, with a SEVER due to peer 9. -/
def leaving : State :=
  { active with
    control := { active.control with station := .leaving }
    arb := { active.arb with severs := put active.arb.severs 9 (some ⟨0x1207, 0x9901, .left⟩) } }

/-- With a JOIN claim for peer 5. -/
def joinDue (s : State) : State := { s with arb := { s.arb with joins := put s.arb.joins 5 true } }

/-- With a TALLY claim for peer 2. -/
def tallyDue (s : State) : State := { s with arb := { s.arb with tallies := put s.arb.tallies 2 true } }

/-- With the yield flag set. -/
def yielding (s : State) : State := { s with arb := { s.arb with yield := true } }

/-- With `n` consecutive aborts counted. -/
def aborted (n : Nat) (s : State) : State := { s with line := { s.line with aborts := n } }

/-- The record of a held slot. -/
def heldIn : TxSlot → Option TxRecord
  | .held r => some r
  | .free => none

/-- A TALLY that acknowledges the message in flight of `busy`, and one whose class 0 acknowledges a message not sent. -/
def goodPairs : PerClass TallyPair := #v[⟨5, 7⟩, ⟨0, 0⟩, ⟨0, 0⟩, ⟨0, 1⟩]
def badPairs : PerClass TallyPair := #v[⟨6, 7⟩, ⟨0, 0⟩, ⟨0, 0⟩, ⟨0, 1⟩]

/-! ## Operands that no command can have (WellFormed) -/

theorem test_empty_message_is_ill_formed : (Instr.messageReceived 2 1 1 0 0 []).wellFormed = false := by decide +kernel

theorem test_long_message_is_ill_formed :
    (Instr.messageReceived 2 1 1 0 0 (List.replicate 501 0)).wellFormed = false := by decide +kernel

theorem test_known_code_is_no_unknown_command : (Instr.unknownCommand 0x1F).wellFormed = false := by decide +kernel

theorem test_empty_frame_is_ill_formed : (Frame.message 6 9 1 1 2 4 []).wellFormed = false := by decide +kernel

/-! ## Encodings: values of chapters 7 and 10 -/

/-- No row has bits, so no word is a command. -/
theorem test_no_row_has_bits : decodeTableWord 0 0 = none ∧ decodeTableWord 8 0x20 = none := by decide +kernel

/-- Chapter 10, the example: the bytes of one SUBMIT. -/
theorem test_submit_bytes :
    commandOfMosi [0x20, 0x09, 0x02, 0x0A, 0x41, 0x00, 0x03, 1, 2, 3] = some (.submit 9 2 0x0A41 3 [1, 2, 3]) := by
  decide +kernel

/-- R142: a transaction that ends before its fields is no command. -/
theorem test_short_cancel : commandOfMosi [0x21, 0x0A, 0x41] = none := by decide +kernel

/-- R137: a MASK of 0xF0 bit by bit, with three bits of a byte that CS rising cuts; cut one bit earlier it is no command. -/
theorem test_port_bits :
    let bits := [false, true, false, false, false, false, true, false, true, true, true, true, false, false, false]
    commandOfPort (bits ++ [false, true, true, true]) = some (.mask 0xF0) ∧ commandOfPort bits = none := by
  decide +kernel

/-- The same example: its frame has 129 bits before stuffing, the start bit and the end delimiter among them, and the
arbitration word 0110110. -/
theorem test_example_frame :
    1 + (Frame.message 6 9 0x0207 0x1103 2 4 [1, 2, 3]).bodyBits.length + 8 = 129 ∧
      (Frame.message 6 9 0x0207 0x1103 2 4 [1, 2, 3]).arbitrationWord = 0b0110110 := by decide +kernel

/-- Chapter 7, the example: what station 3's TALLY puts on the line up to its win, its stuffed bit included. -/
theorem test_station_three_wins :
    (Frame.tally 3 9 0x0301 0x0901 (Vector.replicate 4 ⟨0, 4⟩)).lineBits.take 9 =
      [false, false, false, false, false, true, false, true, true] := by decide +kernel

/-- R131: the published check value of this generator and these presets over the ASCII digits 1 to 9 (CRC-32/BZIP2). -/
theorem test_frame_check :
    frameCheck ([0x31, 0x32, 0x33, 0x34, 0x35, 0x36, 0x37, 0x38, 0x39].flatMap (fieldBits (w := 8))) = 0xFC891918 := by
  decide +kernel

/-- R123: a body bit after five of the other level is a stuffed bit; a sixth of the same level breaks the frame. -/
theorem test_abort_marker_breaks_a_frame : receiveBits abortMarker = .discarded .broken := by decide +kernel

/-- An ANNOUNCE written out: rank 0, source 1, kind 1, incarnation 0x21, with the stuffed bits of its head. -/
theorem test_announce_bits :
    (Frame.announce 1 0x21).coveredBits =
      [false, false, false, false, false, false, true, false, false, false, true,
        false, false, true, false, false, false, false, true] ∧
    receiveBits (Frame.announce 1 0x21).lineBits = .good (.announce 1 0x21) := by decide +kernel

/-- R167, the example: own station byte 0x35 is station 5, and G_2 byte 0xF3 is 3. -/
theorem test_configuration_fields :
    (validRecord { image with ownStation := 0x35, grant2 := 0xF3 }).map (fun r => (r.ownStation, look r.grants 2)) =
      some (5, 3) := by decide +kernel

/-- R153: the grants' sum is 1 to 16, the refresh interval at least 5. -/
theorem test_invalid_records :
    validRecord { image with grant0 := 8, grant1 := 8, grant2 := 1 } = none ∧
      validRecord { image with refreshInterval := 4 } = none ∧ validRecord { image with bitRate := 3 } = none := by
  decide +kernel

/-- R96, the table of six, with acked 250 and S 254. -/
theorem test_tally_validity :
    ([(252, 0), (254, 6), (254, 7), (250, 253), (255, 3), (249, 1)] : List (Count × Count)).map
        (fun t => SendCounters.admits ⟨254, 250, 254, none⟩ ⟨t.1, t.2⟩) =
      [true, true, false, false, false, false] := by decide +kernel

/-! ## Commands: values of the worked sequences, each one step -/

/-- With `p`'s entry put in place. -/
def withPeer (s : State) (p : Station) (e : PeerEntry) : State := { s with session := put s.session p e }

/-- An OPEN entry. -/
def openEntry (ownTag peerTag : Tag) : PeerEntry :=
  ⟨.opened, ownTag, peerTag, 1, false, .none, .stopped, .stopped, .running 70, .running 9⟩

/-- Station `own` with grants `g` and incarnation `inc`, ACTIVE on an idle line. -/
def station (own : Station) (inc : Byte) (g : PerClass Nat) : State :=
  { active with
    control := { active.control with config := some { record with ownStation := own, incarnation := inc, grants := g } } }

/-- Section 11.1: frame 1 at station 7. -/
theorem test_announce_at_seven :
    let t := after (.announceReceived 1 0x21) (station 7 0x77 #v[4, 4, 4, 4])
    (t.entry 1).state = .joining ∧ (t.entry 1).ownTag = 0x7701 ∧ (t.entry 1).peerTag = 0 ∧
      (t.entry 1).joinAttempts = 1 ∧ t.control.tagCounter = 2 ∧ look t.arb.joins 1 = true := by decide +kernel

/-- Section 11.1: frame 4 at station 1; 16 slots are reserved. -/
theorem test_join_opens :
    let t := after (.joinReceived 4 0x4401 0x2101)
      (withPeer (station 1 0x21 #v[4, 4, 4, 4]) 4 ⟨.joining, 0x2101, 0, 1, false, .none, .running 3, .stopped, .stopped,
        .stopped⟩)
    (t.entry 4).state = .opened ∧ (t.entry 4).peerTag = 0x4401 ∧ (t.entry 4).changed = true ∧
      look t.arb.tallies 4 = true ∧ t.rx.freeCount = 224 := by decide +kernel

/-- Section 11.1: a counter at 255 is followed by 1 (R4). -/
theorem test_tag_counter_wraps : nextTagCounter 255 = 1 ∧ nextTagCounter 1 = 2 := by decide +kernel

/-- Chapter 2, the example: station Y with a session to X = 1 and `r` as its class 2 record. -/
def exampleY (r : RxRecord) (pool : Vector RxSlot 240) (queue : List RxIx) : State :=
  let s := withPeer (station 2 0x22 #v[4, 4, 3, 4]) 1 (openEntry 0x2201 0x1101)
  { s with rx := { pool := pool, records := put2 s.rx.records 1 2 r, queues := put s.rx.queues 2 queue } }

/-- The pool at step 3: m0 and m1 held, one slot reserved. -/
def exampleYPool : Vector RxSlot 240 :=
  put (put (put active.rx.pool 0 (.occupied ⟨1, 2, 1, [0xA0]⟩)) 1 (.occupied ⟨1, 2, 1, [0xA1]⟩)) 2 (.reserved 1 2)

/-- Step 4: a duplicate; step 5: the TAKE of m0 completes. -/
theorem test_duplicate_and_take :
    let s := exampleY ⟨2, 3, 1, 2⟩ exampleYPool [0, 1]
    look2 (after (.messageReceived 1 0x1101 0x2201 2 1 [0xA1]) (hearing s)).rx.records 1 2 = ⟨2, 3, 1, 2⟩ ∧
      look2 (after .takeComplete (inTxn (.take 2 0 false) s)).rx.records 1 2 = ⟨2, 4, 2, 1⟩ ∧
      look (after .takeComplete (inTxn (.take 2 0 false) s)).rx.queues 2 = [1] := by decide +kernel

/-- A message in sequence takes the reserved slot: A to 3, reserved to 0, occupied to 3. -/
theorem test_message_accepted :
    let t := after (.messageReceived 1 0x1101 0x2201 2 2 [0xA2]) (hearing (exampleY ⟨2, 3, 1, 2⟩ exampleYPool [0, 1]))
    look2 t.rx.records 1 2 = ⟨3, 3, 0, 3⟩ ∧ look t.rx.queues 2 = [0, 1, 2] ∧
      look t.rx.pool 2 = .occupied ⟨1, 2, 1, [0xA2]⟩ ∧ look t.arb.tallies 1 = true ∧ t.line.state = .receiving .gap := by
  decide +kernel

/-- Steps 6 and 7: the close SILENT, and what the next open then reserves. -/
theorem test_close_keeps_unread :
    let t := after (.silenceExpiry 1) (exampleY ⟨2, 4, 2, 1⟩
      (put (put (put active.rx.pool 1 (.occupied ⟨1, 2, 1, [0xA1]⟩)) 0 (.reserved 1 2)) 2 (.reserved 1 2)) [1])
    look2 t.rx.records 1 2 = ⟨0, 0, 0, 1⟩ ∧ (t.entry 1).state = .lost ∧ (t.entry 1).lastClose = .silent ∧
      t.rx.freeCount = 239 ∧ look t.rx.queues 2 = [1] ∧
      look t.arb.severs 1 = some ⟨0x2201, 0x1101, .silent⟩ ∧
      look2 (t.rx.reserve 1 #v[4, 4, 3, 4]).records 1 2 = ⟨0, 2, 2, 1⟩ := by decide +kernel

/-- R42: a message in sequence without a reservation is a credit overrun. -/
theorem test_credit_overrun :
    let t := after (.messageReceived 1 0x1101 0x2201 2 2 [0xA2]) (hearing (exampleY ⟨2, 2, 0, 3⟩ exampleYPool [0, 1]))
    t.control.faults = ⟨false, false, true⟩ ∧ look2 t.rx.records 1 2 = ⟨2, 2, 0, 3⟩ ∧ t.line.errors = 0 := by
  decide +kernel

/-- Chapter 3: an ANY read shows the head of the lowest nonempty queue, with one message behind it. -/
theorem test_take_any :
    let t := after (.take 0xFF) (asked (exampleY ⟨2, 3, 1, 2⟩ exampleYPool [0, 1]))
    (List.range 8).map t.miso = [0x80, 0, 1, 2, 0, 1, 1, 0xA0].map (some (α := Byte)) ∧
      t.port.txn.map (·.command) = some (.take 2 0 false) := by decide +kernel

/-- R63: a PEEK shows the header alone. -/
theorem test_peek :
    let t := after (.peek 2) (asked (exampleY ⟨2, 3, 1, 2⟩ exampleYPool [0, 1]))
    (List.range 8).map t.miso = [0x80, 0, 1, 2, 0, 1, 1, 0].map (some (α := Byte)) ∧
      (after .transactionEnd t).port.prevResult = .ok := by decide +kernel

/-- Chapter 5, the example: two messages in flight with seqs 1 and 2 to peer 11 in class 2, S = 3. -/
def exampleGap (k : SendCounters) (retries : Nat) (timer : Timer) : State :=
  let s := withPeer (station 4 0x44 #v[4, 4, 4, 4]) 11 (openEntry 0x4401 0xBB01)
  { s with
    tx :=
      { s.tx with
        pool := put (put (put s.tx.pool 1 (.held ⟨1, 11, 2, 1, [1], 1, 1, .inFlight 1⟩)) 2
          (.held ⟨2, 11, 2, 1, [2], 1, 2, .inFlight 2⟩)) 3 (.held ⟨3, 11, 2, 1, [3], 0, 3, .queued⟩)
        flights := put2 s.tx.flights 11 2 [1, 2]
        queues := put2 s.tx.queues 11 2 [3]
        counters := put2 s.tx.counters 11 2 k
        ackTimers := put s.tx.ackTimers 11 timer
        retries := put s.tx.retries 11 retries
        nextOrder := 4 } }

/-- Step 6: the ack timer expires. -/
theorem test_ack_timer :
    let t := after (.ackTimerExpiry 11) (exampleGap ⟨3, 1, 3, none⟩ 0 (.running 0))
    look2 t.tx.counters 11 2 = ⟨3, 1, 3, some 1⟩ ∧ look t.tx.retries 11 = 1 ∧ look t.tx.ackTimers 11 = .stopped := by
  decide +kernel

/-- Step 7: the resend of seq 1 is built and wins. -/
theorem test_resend_wins :
    let t := transmitting (exampleGap ⟨3, 1, 3, some 1⟩ 1 .stopped)
    look2 t.tx.counters 11 2 = ⟨3, 1, 3, some 2⟩ ∧ look t.tx.ackTimers 11 = .running 11 ∧
      (heldIn (look t.tx.pool 1)).map (·.transmitCount) = some 2 ∧
      t.line.outbound = some (.message 4 11 0x4401 0xBB01 2 1 [1]) := by decide +kernel

/-- Step 9: the TALLY that acknowledges both. -/
theorem test_tally_acknowledges :
    let t := after (.tallyReceived 11 0xBB01 0x4401 #v[⟨0, 0⟩, ⟨0, 0⟩, ⟨3, 4⟩, ⟨0, 0⟩])
      (hearing (exampleGap ⟨3, 1, 3, none⟩ 1 (.running 5)))
    look2 t.tx.counters 11 2 = ⟨3, 3, 4, none⟩ ∧ look2 t.tx.flights 11 2 = [] ∧ look t.tx.retries 11 = 0 ∧
      look t.tx.ackTimers 11 = .stopped ∧ t.tx.completions = [1, 2] ∧ t.tx.credit 11 2 = 1 := by decide +kernel

/-- R97: an invalid TALLY closes the session PROTOCOL and completes all three messages DROPPED. -/
theorem test_invalid_tally :
    let t := after (.tallyReceived 11 0xBB01 0x4401 #v[⟨0, 0⟩, ⟨0, 0⟩, ⟨4, 4⟩, ⟨0, 0⟩])
      (hearing (exampleGap ⟨3, 1, 3, none⟩ 1 (.running 5)))
    (t.entry 11).state = .lost ∧ (t.entry 11).lastClose = .protocol ∧ t.tx.completions = [1, 2, 3] ∧
      look t.arb.severs 11 = some ⟨0x4401, 0xBB01, .protocol⟩ := by decide +kernel

/-- Section 11.5, step 1: a RESTART drops what is in flight and keeps what is queued. -/
theorem test_restart :
    let t := after (.announceReceived 11 0xBC) (hearing (exampleGap ⟨3, 1, 3, none⟩ 1 (.running 5)))
    (t.entry 11).state = .joining ∧ (t.entry 11).lastClose = .restart ∧ (t.entry 11).changed = true ∧
      t.tx.completions = [1, 2] ∧ look2 t.tx.queues 11 2 = [3] ∧ look2 t.tx.counters 11 2 = ⟨0, 0, 0, none⟩ := by
  decide +kernel

/-- Chapter 6, the example, step 1: with the yield flag set the TALLY to 13 is built, the first after pointer 9. -/
theorem test_selection_after_nine :
    let s := station 6 0x66 #v[4, 4, 4, 4]
    let t := after .idleBegun { (s.setLine (.receiving .gap)) with
      arb := { s.arb with tallies := put (put s.arb.tallies 9 true) 13 true, tallyPtr := 9, yield := true } }
    t.arb.inHand = some ⟨.tally 13, false⟩ ∧ t.arb.tallyPtr = 13 ∧ look t.arb.tallies 9 = true ∧
      look t.arb.tallies 13 = false ∧ t.line.state = .contending ∧ t.arb.yield = true := by decide +kernel

/-- The same example, steps 2 and 3: the frame is lost, the yield flag clears and the claim comes back. -/
theorem test_lost_tally_claim :
    let s := station 6 0x66 #v[4, 4, 4, 4]
    let t := after (.frameLost .arbitration) { s with
      arb := { s.arb with tallyPtr := 13, yield := true, inHand := some ⟨.tally 13, false⟩ }
      line := { s.line with state := .contending, outbound := some (.tally 6 13 1 1 (Vector.replicate 4 ⟨0, 0⟩)) } }
    look t.arb.tallies 13 = true ∧ t.arb.yield = false ∧ t.arb.inHand = none ∧ t.line.outbound = none ∧
      t.line.state = .receiving .frame := by decide +kernel

/-- Section 11.6: message x of station 2 to peer 7 in class 2, with credit. -/
def exampleX : State :=
  let s := withPeer (station 2 0x22 #v[4, 4, 4, 4]) 7 (openEntry 0x2201 0x7701)
  { s with tx := { s.tx with counters := put2 s.tx.counters 7 2 ⟨0, 0, 4, none⟩ } }

/-- The state after step 1, the SUBMIT of x. -/
def exampleX1 : State := after .transactionEnd (after (.submit 7 2 0x0051 2 [8, 9]) (asked exampleX))

theorem test_submit :
    exampleX1.port.prevResult = .ok ∧ exampleX1.tx.freeCount = 31 ∧ look2 exampleX1.tx.queues 7 2 = [0] ∧
      exampleX1.port.staging = [8, 9] := by decide +kernel

/-- Step 3: a CANCEL that meets SENDING is refused. -/
theorem test_cancel_of_sending :
    let t := after .transactionEnd (after (.cancel 0x0051 7) (asked (contending exampleX1)))
    t.port.prevResult = .inFlight ∧ t.tx.sending = some 0 ∧ t.tx.completions = [] := by decide +kernel

/-- Steps 4 and 5: the frame is lost, and the repeated CANCEL takes the message. -/
theorem test_cancel_after_loss :
    let t := after (.cancel 0x0051 7) (asked (after (.frameLost .arbitration) (contending exampleX1)))
    t.tx.completions = [0] ∧ t.tx.freeCount = 31 ∧ (look2 t.tx.counters 7 2).next = 0 ∧
      t.tx.completionRecord 0 = [0x00, 0x51, 0x07, 0x02, 0x02, 0x00, 0x00, 0x00] := by decide +kernel

/-- The variant: the frame wins first. -/
theorem test_first_transmission_wins :
    let t := transmitting exampleX1
    look2 t.tx.counters 7 2 = ⟨1, 0, 4, none⟩ ∧ look2 t.tx.flights 7 2 = [0] ∧ t.tx.sending = none ∧
      look t.tx.ackTimers 7 = .running 11 := by decide +kernel

/-- R128 and R94: after the win, the completion sets the yield flag, and an abort the resend point. -/
theorem test_completed_and_aborted :
    (after .frameCompleted (transmitting exampleX1)).arb.yield = true ∧
      (after .frameCompleted (transmitting exampleX1)).line = ⟨.receiving .gap, none, 0, 0, false⟩ ∧
      (look2 (after .frameAborted (transmitting exampleX1)).tx.counters 7 2).resend = some 0 ∧
      (after .frameAborted (transmitting exampleX1)).line.aborts = 1 := by decide +kernel

/-- R126, R127 and R130: an abort and a drive fault drive the marker, going SILENT drives it for a frame that has won and for
no other, and a reset drives none; the next start bit is behind it. -/
theorem test_abort_marker :
    (after .frameAborted (transmitting exampleX1)).ltxBits = List.replicate 8 false ∧
      (after (.frameLost .driveFault) (contending exampleX1)).ltxBits = List.replicate 8 false ∧
      (after (.frameLost .arbitration) (contending exampleX1)).ltxBits = [] ∧
      (transmitting exampleX1).goSilent.ltxBits = List.replicate 8 false ∧ (contending exampleX1).goSilent.ltxBits = [] ∧
      (after (.resetPin .falls) (transmitting exampleX1)).ltxBits = [] ∧
      (after .startBitReceived (after .frameAborted (transmitting exampleX1))).ltxBits = [] := by decide +kernel

/-- R28 and R145: a close while a PEERS of the peer is open, and a fault while a STATUS is open, are remembered; of another
peer nothing is. -/
theorem test_set_since :
    (after (.silenceExpiry 2) (inTxn (.peers 2 false false) busy)).command = some (.peers 2 true false) ∧
      (after (.silenceExpiry 2) (inTxn (.peers 5 false false) busy)).command = some (.peers 5 false false) ∧
      (after (.announceReceived 3 0) (hearing (inTxn (.status .clear 0 .clear false) leaving))).command =
        some (.status .clear 0 ⟨true, false, false⟩ false) := by decide +kernel

/-- Step 6: COMPLETIONS of one record, read whole, frees its slot. -/
theorem test_completions :
    let t := after (.completions 1) (asked busy)
    (List.range 11).map t.miso =
        [0x80, 0x00, 0x01, 0x0A, 0x03, 0x02, 0x00, 0x01, 0x00, 0x01, 0x00].map (some (α := Byte)) ∧
      (after .completionRecordRead t).tx.completions = [] ∧
      look (after .completionRecordRead t).tx.pool 2 = .free ∧
      (after .transactionEnd (after .completionRecordRead t)).port.prevResult = .ok := by decide +kernel

/-- Chapter 8, transaction 1: a flag set during a STATUS that shows it clear outlives the read; the error count falls by
the two it showed. -/
theorem test_status_across_a_fault :
    let s : State := { busy with line := { busy.line with errors := 2 } }
    let t := after .statusReadClear ((after .status (asked s)).setFault .creditOverrun)
    t.control.faults = ⟨false, false, true⟩ ∧ t.line.errors = 0 ∧
      (after .transactionEnd t).port.prevResult = .ok := by decide +kernel

/-- R144: the status record after reset. -/
theorem test_status_after_reset :
    let t := after .status (after .transactionBegin State.reset)
    (List.range 13).map t.miso = [0, 0, 0, 0, 0, 32, 240, 0, 0, 0, 0, 0, 0].map (some (α := Byte)) := by decide +kernel

/-- R146 and R147: the peer record of an OPEN peer, and its changed flag after a full read. -/
theorem test_peers :
    let t := after (.peers 2) (asked busy)
    ((List.range 20).map t.miso).drop 2 =
        [0x02, 0x12, 0x01, 0x34, 0x01, 0x01, 0x00, 0x01, 0x01, 1, 2, 1, 1, 5, 4, 7, 1, 1].map (some (α := Byte)) ∧
      ((after .peersReadClear t).entry 2).changed = false := by decide +kernel

/-- R139 and R149: the summary of `busy` is ACT, PEER, COMP and RX0; ATTN follows the mask. -/
theorem test_summary_and_attn :
    busy.summary = 0b10110001 ∧ (after (.mask 0x20) (asked busy)).port.attn = true ∧
      (after (.mask 0x0E) (asked busy)).port.attn = false := by decide +kernel

/-- R141: an unknown command, and the byte 1 that the next transaction shows. -/
theorem test_unknown_command :
    (after .transactionBegin (after .transactionEnd (after (.unknownCommand 0x13) (asked busy)))).miso 1 = some 0x03 := by
  decide +kernel

/-- R154 to R157: CONFIGURE, START and LEAVE in turn, with no session to close. -/
theorem test_station_commands :
    (after (.configure image) (asked State.reset)).control.config = some record ∧
      (after .start (asked configured)).line.state = .receiving .unsynchronized ∧
      (after .start (asked configured)).arb.announce = true ∧
      (after .leave (asked active)).control.station = .configured ∧
      (after .leave (asked leaving)).control.station = .leaving := by decide +kernel

/-- R157: DRAINED waits for the last SEVER. -/
theorem test_drained :
    (after .drained leaving).control.station = .leaving ∧
      (after .drained (after .frameCompleted (transmitting leaving))).control.station = .configured := by decide +kernel

/-- R161: a reset command ends its transaction; the pin's reset cuts one and leaves CS as it is. -/
theorem test_resets :
    (after .reset (asked busy)).port.txn = none ∧ (after .reset (asked busy)).control.station = .unconfigured ∧
      (after (.resetPin .pulse) (asked busy)).port = { HostPort.reset with cs := .low } ∧
      (after (.powerOn ⟨.high, .high⟩) busy).rx.freeCount = 240 := by decide +kernel

/-- R151 and R161: while RST is low a fall of CS opens no transaction and MISO is undriven; after its rise MISO is driven
while CS is low, and the next fall of CS opens one whose byte 1 is NONE. -/
theorem test_held_in_reset :
    let held := after .transactionBegin (after (.resetPin .falls) busy)
    let risen := after (.resetPin .rises) held
    held.port.cs = .low ∧ held.port.txn = none ∧ held.miso 0 = none ∧ (after .status held).port.txn = none ∧
      (risen.miso 0).isSome = true ∧ (after .transactionEnd risen).miso 0 = none ∧
      (after .transactionBegin (after .transactionEnd risen)).miso 1 = some 0 ∧
      (after (.powerOn ⟨.low, .high⟩) busy) = busy.held := by decide +kernel

/-- R115: the end of the window clears the yield flag, and the data goes. -/
theorem test_window_out :
    (after .windowOut (yielding busy)).arb.inHand = some ⟨.message 2, false⟩ ∧
      (after .frameBuild (yielding busy)).arb.inHand = none := by decide +kernel

/-- R132 and R133: a discarded frame counts once, up to 255. -/
theorem test_discard_counts :
    (after (.frameDiscard .badCheck) (hearing busy)).line = ⟨.receiving .passing, none, 0, 1, false⟩ ∧
      (after (.frameDiscard .broken) (hearing { busy with line := { busy.line with errors := 255 } })).line.errors = 255 := by
  decide +kernel

/-- R124 and R125: the line becomes IDLE outside a frame, and not within one. -/
theorem test_idle_outside_a_frame :
    (after .idleBegun (active.setLine (.receiving .passing))).line.state = .idle ∧
      (after .idleBegun (hearing active)).line.state = .receiving .frame := by decide +kernel

/-- R126: a start bit while CONTENDING costs the frame in hand. -/
theorem test_earlier_start :
    (after .startBitReceived (contending (tallyDue busy))).line.outbound = none ∧
      look (after .startBitReceived (contending (tallyDue busy))).arb.tallies 2 = true := by decide +kernel

/-- R125: a start bit on an idle line. -/
theorem test_start_bit : (after .startBitReceived (yielding busy)).line.state = .receiving .frame ∧
    (after .startBitReceived (yielding busy)).arb.yield = false := by decide +kernel

/-- R23 and R19: a matching SEVER closes; a TALLY under stale tags is answered by a SEVER with the tags swapped. -/
theorem test_sever_and_stale :
    ((after (.severReceived 2 0x3401 0x1201 6) (hearing busy)).entry 2).lastClose = .severed ∧
      look (after (.tallyReceived 2 0x3402 0x1201 goodPairs) (hearing busy)).arb.severs 2 =
        some ⟨0x1201, 0x3402, .stale⟩ := by decide +kernel

/-- R135 and R8: a frame for a third station starts its sender's silence timer: 4 times 20 ms. -/
theorem test_heard :
    ((after (.frameAddressedToAnotherStation .join 2) (hearing busy)).entry 2).silenceTimer = .running 81 := by
  decide +kernel

/-- R24, R25 and R27: three expiries. -/
theorem test_session_timers :
    ((after (.joinTimerExpiry 5) busy).entry 5).joinAttempts = 2 ∧
      ((after (.holdDownExpiry 7) busy).entry 7).ownTag = 0x1203 ∧
      look (after (.refreshExpiry 2) busy).arb.tallies 2 = true := by decide +kernel

/-- R163: a tick counts every timer, and nothing is due before its last one. -/
theorem test_tick :
    (busy.tick.entry 2).silenceTimer = .running 59 ∧ (busy.tick.entry 7).holdDownTimer = .running 29 ∧
      look busy.tick.tx.ackTimers 2 = .running 3 ∧ busy.tick.pending = [] := by decide +kernel

/-! ## The laws, in a state with something everywhere (witnesses of the laws-kept statements) -/

theorem witness_SessionLawsKept : TagLaw busy ∧ TimerLaw busy ∧ QuietLaw busy ∧ ClaimLaw busy := by decide +kernel

theorem witness_SessionLawsKept_claims :
    TagLaw (joinDue (tallyDue busy)) ∧ TimerLaw (joinDue (tallyDue busy)) ∧ QuietLaw (joinDue (tallyDue busy)) ∧
      ClaimLaw (joinDue (tallyDue busy)) := by decide +kernel

theorem witness_LineAndPortLawsKept : LineLaw busy ∧ CountLaw busy ∧ PortLaw busy := by decide +kernel

/-- Reading the gap behind an abort marker. -/
def marked : State := after .frameAborted (transmitting busy)

/-- Held in reset with CS low. -/
def held : State := after .transactionBegin (after (.resetPin .falls) busy)

theorem witness_LineAndPortLawsKept_marked : LineLaw marked ∧ CountLaw marked ∧ PortLaw marked ∧ marked.line.marker = true := by
  decide +kernel

theorem witness_LineAndPortLawsKept_held :
    LineLaw held ∧ CountLaw held ∧ PortLaw held ∧ held.port.rst = .low ∧ held.port.cs = .low := by decide +kernel

theorem witness_LineAndPortLawsKept_contending :
    LineLaw (contending busy) ∧ CountLaw (contending busy) ∧ PortLaw (contending busy) := by decide +kernel

theorem witness_ReceiveLawsKept : ReceiveLaws busy ∧ (busy.entry 5).state = .joining :=
  ⟨⟨by decide +kernel, by decide +kernel, by decide +kernel, by decide +kernel, by decide +kernel, by decide +kernel,
    by decide +kernel, by decide +kernel⟩, by decide +kernel⟩

theorem witness_ReceiveLawsKept_unconfigured :
    ReceiveLaws (asked State.reset) ∧ (asked State.reset).control.station = .unconfigured :=
  ⟨⟨by decide +kernel, by decide +kernel, by decide +kernel, by decide +kernel, by decide +kernel, by decide +kernel,
    by decide +kernel, by decide +kernel⟩, by decide +kernel⟩

theorem witness_TransmitLawsKept :
    TransmitLaws (inTxn (.completions 1) busy) ∧ (look busy.tx.ackTimers 2).isRunning = true :=
  ⟨⟨by decide +kernel, by decide +kernel, by decide +kernel, by decide +kernel, by decide +kernel, by decide +kernel,
    by decide +kernel, by decide +kernel⟩, by decide +kernel⟩

theorem witness_TransmitLawsKept_contending : TransmitLaws (contending busy) :=
  ⟨by decide +kernel, by decide +kernel, by decide +kernel, by decide +kernel, by decide +kernel, by decide +kernel,
    by decide +kernel, by decide +kernel⟩

theorem witness_TransmitLawsKept_transmitting : TransmitLaws (transmitting resendDue) :=
  ⟨by decide +kernel, by decide +kernel, by decide +kernel, by decide +kernel, by decide +kernel, by decide +kernel,
    by decide +kernel, by decide +kernel⟩

/-! ## A state and operands for every other statement with hypotheses, clause by clause -/

/-- A property of every held slot, from one decidable over the pool. -/
theorem of_pool {pool : Vector TxSlot Config.txSlots} {P : TxRecord → Prop}
    (h : ∀ i : TxIx, ∀ r ∈ heldIn (look pool i), P r) : ∀ (i : TxIx) (r : TxRecord), look pool i = .held r → P r :=
  fun i r e => h i r (by rw [e]; rfl)

/-- Nothing is sendable to a peer that is not OPEN. -/
theorem hasSendable_closed {s : State} {p : Station} {c : Cls} (h : (s.entry p).state ≠ .opened) :
    s.hasSendable p c = false := by simp [State.hasSendable, HeadEligible, ResendDue, h]

/-- The one OPEN peer is served, from any pointer. -/
theorem dataServed_of_only {s : State} {p : Station} (ho : DataOffered s) (hs : s.hasSendable p 0 = true)
    (h : ∀ q : Station, q ≠ p → (s.entry q).state ≠ .opened) : DataServed s p 0 :=
  ⟨ho, fun d hd => absurd hd (Nat.not_lt_zero _), hs, fun q hq => by
    by_cases e : q = p
    · rw [e]
    · simp [hasSendable_closed (h q e)] at hq⟩

theorem witness_IdleStepIsOneTick : busy.pending = [] := rfl

theorem witness_TimerExpiresAfterInterval : 0 ≤ 0 + 1 ∧ 15 ≤ 15 + 1 ∧ 16 ≤ 15 + 1 := by decide

/-- Every statement that asks only for an open transaction: the three resets, STATUS, PEERS, MASK. -/
theorem witness_open_transaction : (asked busy).openTxn = some fresh ∧ (asked State.reset).openTxn = some fresh := by
  decide +kernel

theorem witness_ThreeResetsAreOne : held.port.rst = .low ∧ busy.port.rst = .high := by decide +kernel

theorem witness_ConfigureAppliesRecord :
    (asked configured).openTxn = some fresh ∧ validRecord image = some record ∧
      (asked configured).control.station = .configured ∧
      (∀ i : RxIx, (look (asked configured).rx.pool i).isOccupied = false) ∧
      (asked State.reset).control.station = .unconfigured := by decide +kernel

theorem witness_StationCommandRefusals :
    (asked busy).openTxn = some fresh ∧ (asked busy).control.station = .active ∧
      validRecord { image with holdDown := 0 } = none ∧ validRecord image ≠ none ∧
      (asked { configured with rx := busy.rx }).control.station = .configured ∧
      (∃ i : RxIx, (look (asked { configured with rx := busy.rx }).rx.pool i).isOccupied = true) ∧
      (asked leaving).openTxn = some fresh ∧ (asked leaving).control.station = .leaving ∧
      (asked State.reset).control.station = .unconfigured := by decide +kernel

theorem witness_StartTakesTheLine :
    (asked configured).openTxn = some fresh ∧ (asked configured).control.station = .configured := by decide +kernel

theorem witness_LeaveClosesEverySession :
    (asked busy).openTxn = some fresh ∧ (asked busy).control.station = .active ∧ LineLaw (asked busy) := by
  decide +kernel

/-- LEAVING with nothing to send. -/
def lastLeft : State := { leaving with arb := active.arb }

theorem witness_DrainedStationIsConfigured :
    (LineLaw lastLeft ∧ lastLeft.control.station = .leaving ∧ (∀ p : Station, look lastLeft.arb.severs p = none) ∧
      lastLeft.arb.inHand = none) ∧
    (LineLaw leaving ∧ ∃ p : Station, look leaving.arb.severs p ≠ none) ∧
    (LineLaw (contending leaving) ∧ (contending leaving).arb.inHand ≠ none) ∧
    (LineLaw busy ∧ busy.control.station ≠ .leaving) := by decide +kernel

theorem witness_SubmitQueuesMessage :
    (asked busy).openTxn = some fresh ∧ (asked busy).control.station = .active ∧ (asked busy).own ≠ some 2 ∧
      1 ≤ (1 : BitVec 16).toNat ∧ (500 : BitVec 16).toNat ≤ 500 ∧ (1 : BitVec 16).toNat ≤ [0xAA#8].length ∧
      (500 : BitVec 16).toNat ≤ (List.replicate 501 0xAA#8).length ∧
      ((asked busy).entry 2).state = .opened ∧ ((asked busy).entry 5).state = .joining ∧
      (∃ i : TxIx, look (asked busy).tx.pool i = .free) := by decide +kernel

/-- With no FREE transmit slot. -/
def full : State := { busy with tx := { busy.tx with pool := Vector.replicate 32 (.held sentTo2) } }

theorem witness_SubmitAndCancelRefusals_submit :
    (asked configured).submitRefusal 16 4 0 0 = some .wrongState ∧
      (asked busy).submitRefusal 3 4 0 0 = some .badDest ∧ (asked busy).submitRefusal 16 4 0 0 = some .badDest ∧
      (asked busy).submitRefusal 4 4 0 0 = some .badClass ∧ (asked busy).submitRefusal 4 3 0 0 = some .badLength ∧
      (asked busy).submitRefusal 4 3 501 501 = some .badLength ∧ (asked busy).submitRefusal 4 3 500 499 = some .short ∧
      (asked busy).submitRefusal 4 3 1 1 = some .peerDown ∧ (asked full).submitRefusal 2 3 1 1 = some .noSlot := by
  decide +kernel

theorem witness_SubmitAndCancelRefusals_cancel :
    (asked busy).openTxn = some fresh ∧ 15 < (16 : Byte).toNat ∧
      (∀ (i : TxIx) (r : TxRecord), look (asked busy).tx.pool i = .held r → r.hostTag = 0x0A02 → r.destination = 2 →
        r.state ≠ .queued) ∧
      (look (asked busy).tx.pool 1 = .held flyingTo2 ∧ flyingTo2.hostTag = 0x0A02 ∧ flyingTo2.destination = 2 ∧
        flyingTo2.state = .inFlight 4) ∧
      (∀ (i : TxIx) (r : TxRecord), look (asked busy).tx.pool i = .held r → r.hostTag = 0x0A03 → r.destination = 2 →
        ∃ (st : CompletionStatus) (rs : CloseReason), r.state = .done st rs) := by
  refine ⟨by decide +kernel, by decide, of_pool (by decide +kernel), by decide +kernel, ?_⟩
  intro i r h ht hd
  exact ⟨.sent, .none, of_pool (P := fun r => r.hostTag = 0x0A03 → r.destination = 2 → r.state = .done .sent .none)
    (by decide +kernel) i r h ht hd⟩

theorem witness_CancelTakesOldestQueued :
    (asked busy).openTxn = some fresh ∧ look (asked busy).tx.pool 0 = .held queuedTo2 ∧ queuedTo2.destination = 2 ∧
      queuedTo2.state = .queued ∧
      ∀ (j : TxIx) (u : TxRecord), look (asked busy).tx.pool j = .held u → u.hostTag = queuedTo2.hostTag →
        u.destination = 2 → u.state = .queued → j = 0 ∨ queuedTo2.order < u.order := by
  refine ⟨by decide +kernel, by decide +kernel, rfl, rfl, fun j u h ht hd hs => .inl ?_⟩
  have key : ∀ i : TxIx, ∀ r ∈ heldIn (look (asked busy).tx.pool i), r.hostTag = queuedTo2.hostTag → i = 0 := by
    decide +kernel
  exact key j u (by rw [h]; rfl) ht

theorem witness_CompletionsShowsOldestRecords :
    (asked busy).openTxn = some fresh ∧ (1 ≤ (1 : Byte).toNat ∧ (1 : Byte).toNat ≤ 32) ∧
      (1 ≤ (32 : Byte).toNat ∧ (32 : Byte).toNat ≤ 32) ∧ (0 : Byte).toNat = 0 ∧ 32 < (33 : Byte).toNat := by
  decide +kernel

theorem witness_RecordReadFreesHead :
    ((inTxn (.completions (0 + 1)) busy).port.txn = some { fresh with command := .completions (0 + 1) } ∧
      (inTxn (.completions (0 + 1)) busy).tx.completions = 2 :: []) ∧
    ∀ n : Nat, (inTxn (.completions 0) busy).command ≠ some (.completions (n + 1)) :=
  ⟨by decide +kernel, fun n h => by simp [inTxn, State.command] at h⟩

theorem witness_TakeAndPeekShowHead :
    (asked busy).openTxn = some fresh ∧ look (asked busy).rx.queues 0 = 0 :: [] ∧
      look (asked busy).rx.pool 0 = .occupied ⟨2, 0, 1, [7]⟩ ∧ (0x00 : Byte).toNat = (0 : Cls).val ∧
      (∀ d : Cls, d < 0 → look (asked busy).rx.queues d = []) := by decide +kernel

theorem witness_TakeAndPeekOfNothing :
    ((asked busy).openTxn = some fresh ∧ (0x03 : Byte).toNat = (3 : Cls).val ∧ look (asked busy).rx.queues 3 = []) ∧
    ((asked active).openTxn = some fresh ∧ ∀ c : Cls, look (asked active).rx.queues c = []) := by decide +kernel

theorem witness_ClassByteOutOfRange :
    PortLaw (asked busy) ∧ (asked busy).openTxn = some fresh ∧ (4 ≤ (0x04 : Byte).toNat ∧ (0x04 : Byte).toNat ≤ 0xFE) ∧
      (4 ≤ (0xFE : Byte).toNat ∧ (0xFE : Byte).toNat ≤ 0xFE) := by decide +kernel

/-- A TAKE of class 0 has shown its message. -/
def taking (s : State) : State := inTxn (.take 0 0 false) s

theorem witness_TakeCompletionReleases :
    (taking busy).port.txn = some { fresh with command := .take 0 0 false } ∧ look (taking busy).rx.queues 0 = 0 :: [] ∧
      look (taking busy).rx.pool 0 = .occupied ⟨2, 0, 1, [7]⟩ ∧ ((taking busy).entry 2).state = .opened ∧
      look (taking { active with rx := busy.rx }).rx.queues 0 = 0 :: [] ∧
      look (taking { active with rx := busy.rx }).rx.pool 0 = .occupied ⟨2, 0, 1, [7]⟩ ∧
      ((taking { active with rx := busy.rx }).entry 2).state = .absent := by decide +kernel

theorem witness_FullReadsClear :
    (inTxn (.status .clear 2 .clear false) busy).port.txn = some { fresh with command := .status .clear 2 .clear false } ∧
      (inTxn (.peers 7 false false) busy).port.txn = some { fresh with command := .peers 7 false false } := by
  decide +kernel

theorem witness_PeerByteOutOfRange :
    PortLaw (asked busy) ∧ (asked busy).openTxn = some fresh ∧ 16 ≤ (16 : Byte).toNat ∧ 16 ≤ (255 : Byte).toNat := by decide +kernel

theorem witness_UnknownCommandTakesNothing :
    PortLaw (asked busy) ∧ (asked busy).openTxn = some fresh ∧
      (0x13 : Byte) ∉ ([0x10, 0x11, 0x12, 0x1F, 0x20, 0x21, 0x22, 0x30, 0x31, 0x40, 0x41, 0x42] : List Byte) := by
  decide +kernel

theorem witness_TransactionBeginSamplesSummary :
    (busy.port.cs = .high ∧ busy.port.rst = .high) ∧
      ((after (.resetPin .falls) busy).port.cs = .high ∧ (after (.resetPin .falls) busy).port.rst = .low) ∧
      (asked busy).port.cs = .low := by decide +kernel

theorem witness_TransactionEndWritesResult :
    busy.port.txn = none ∧
      ∀ c ∈ [TxnCommand.none, .unknown, .decided .noSlot, .take 0 0 true, .completions 0, .status .clear 2 .clear true,
        .peers 7 false true], (inTxn c busy).port.txn = some { fresh with command := c } := by decide +kernel

theorem witness_HostCommandNeedsTransaction :
    isHostCommand .status = true ∧ busy.openTxn = none ∧ (inTxn .unknown busy).openTxn = none := by decide +kernel

/-- A selection at FRAME_BUILD, at IDLE_BEGUN, behind an abort marker, and at WINDOW_OUT. -/
theorem witness_selections :
    SelectsFrom .frameBuild busy busy ∧
      SelectsFrom .idleBegun marked { marked with line := { marked.line with marker := false } } ∧
      SelectsFrom .windowOut (yielding busy) { yielding busy with arb := { (yielding busy).arb with yield := false } } :=
  ⟨⟨by decide +kernel, by decide +kernel, .inl ⟨rfl, by decide +kernel, rfl⟩⟩,
    ⟨by decide +kernel, by decide +kernel, .inr (.inl ⟨rfl, by decide +kernel, rfl⟩)⟩,
    ⟨by decide +kernel, by decide +kernel, .inr (.inr ⟨rfl, by decide +kernel, rfl⟩)⟩⟩

/-- With the ANNOUNCE flag set. -/
def announcing : State := { busy with arb := { busy.arb with announce := true } }

theorem witness_ControlFramesInOrder_announce :
    SelectsFrom .frameBuild announcing announcing ∧ announcing.control.station = .active ∧
      announcing.arb.announce = true :=
  ⟨⟨by decide +kernel, by decide +kernel, .inl ⟨rfl, by decide +kernel, rfl⟩⟩, by decide +kernel, rfl⟩

theorem witness_ControlFramesInOrder_sever :
    SelectsFrom .frameBuild leaving leaving ∧ leaving.control.station = .leaving ∧
      ServedNext leaving.arb.severPtr (fun q => (look leaving.arb.severs q).isSome) 9 ∧
      look leaving.arb.severs 9 = some ⟨0x1207, 0x9901, .left⟩ :=
  ⟨⟨by decide +kernel, by decide +kernel, .inl ⟨rfl, by decide +kernel, rfl⟩⟩, by decide +kernel, by decide +kernel,
    by decide +kernel⟩

theorem witness_ControlFramesInOrder_join :
    SelectsFrom .frameBuild (joinDue busy) (joinDue busy) ∧ (joinDue busy).control.station = .active ∧
      (joinDue busy).arb.announce = false ∧ (∀ q : Station, look (joinDue busy).arb.severs q = none) ∧
      ServedNext (joinDue busy).arb.joinPtr (look (joinDue busy).arb.joins) 5 :=
  ⟨⟨by decide +kernel, by decide +kernel, .inl ⟨rfl, by decide +kernel, rfl⟩⟩, by decide +kernel, by decide +kernel,
    by decide +kernel, by decide +kernel⟩

theorem witness_ControlFramesInOrder_tally :
    SelectsFrom .frameBuild (tallyDue busy) (tallyDue busy) ∧ (tallyDue busy).control.station = .active ∧
      (tallyDue busy).arb.announce = false ∧ (∀ q : Station, look (tallyDue busy).arb.severs q = none) ∧
      (∀ q : Station, look (tallyDue busy).arb.joins q = false) ∧
      ServedNext (tallyDue busy).arb.tallyPtr (look (tallyDue busy).arb.tallies) 2 :=
  ⟨⟨by decide +kernel, by decide +kernel, .inl ⟨rfl, by decide +kernel, rfl⟩⟩, by decide +kernel, by decide +kernel,
    by decide +kernel, by decide +kernel, by decide +kernel⟩

theorem witness_DataFramesInOrder_head :
    SelectsFrom .frameBuild busy busy ∧ DataServed busy 2 0 ∧ HeadEligible busy 2 0 0 ∧
      look busy.tx.pool 0 = .held queuedTo2 :=
  ⟨witness_selections.1, dataServed_of_only (by decide +kernel) (by decide +kernel) (by decide +kernel),
    by decide +kernel, by decide +kernel⟩

theorem witness_DataFramesInOrder_resend :
    SelectsFrom .frameBuild resendDue resendDue ∧ DataServed resendDue 2 0 ∧ ResendDue resendDue 2 0 1 4 :=
  ⟨⟨by decide +kernel, by decide +kernel, .inl ⟨rfl, by decide +kernel, rfl⟩⟩,
    dataServed_of_only (by decide +kernel) (by decide +kernel) (by decide +kernel), by decide +kernel⟩

theorem witness_SelectionOfNothing_idle :
    SelectsFrom .frameBuild active active ∧ active.arb.announce = false ∧
      (∀ p : Station, look active.arb.joins p = false ∧ look active.arb.tallies p = false) ∧
      (∀ (p : Station) (c : Cls), active.hasSendable p c = false) ∧ ∀ p : Station, look active.arb.severs p = none :=
  ⟨⟨by decide +kernel, by decide +kernel, .inl ⟨rfl, by decide +kernel, rfl⟩⟩, by decide +kernel, by decide +kernel,
    fun p _ => hasSendable_closed ((by decide +kernel : ∀ q : Station, (active.entry q).state ≠ .opened) p),
    by decide +kernel⟩

theorem witness_SelectionOfNothing_in_a_frame : (hearing busy).line.state = .receiving .frame := rfl

theorem witness_SelectionOfNothing_leaving :
    SelectsFrom .frameBuild lastLeft lastLeft ∧ lastLeft.control.station = .leaving ∧
      ∀ p : Station, look lastLeft.arb.severs p = none :=
  ⟨⟨by decide +kernel, by decide +kernel, .inl ⟨rfl, by decide +kernel, rfl⟩⟩, rfl, by decide +kernel⟩

theorem witness_SelectionOfNothing_yielding :
    SelectsFrom .frameBuild (yielding busy) (yielding busy) ∧ (yielding busy).arb.yield = true ∧
      (yielding busy).arb.announce = false ∧ (∀ p : Station, look (yielding busy).arb.severs p = none) ∧
      ∀ p : Station, look (yielding busy).arb.joins p = false ∧ look (yielding busy).arb.tallies p = false :=
  ⟨⟨by decide +kernel, by decide +kernel, .inl ⟨rfl, by decide +kernel, rfl⟩⟩, rfl, rfl, by decide +kernel,
    by decide +kernel⟩

/-- The session of a MESSAGE in hand has been closed: the frame is detached (R95). -/
def detached : State := after (.silenceExpiry 2) (contending busy)

theorem witness_WinOfAMessage :
    ((contending busy).line.state = .contending ∧ (contending busy).arb.inHand = some ⟨.message 2, false⟩ ∧
      (contending busy).tx.tie = some ⟨0, 2, 0, 5, true⟩ ∧
      look (contending busy).tx.pool 0 = .held { queuedTo2 with state := .sending }) ∧
    ((contending resendDue).line.state = .contending ∧ (contending resendDue).tx.tie = some ⟨1, 2, 0, 4, false⟩ ∧
      look (contending resendDue).tx.pool 1 = .held flyingTo2) ∧
    detached.line.state = .contending ∧ detached.arb.inHand = some ⟨.message 2, false⟩ ∧ detached.tx.tie = none := by
  decide +kernel

theorem witness_WinOfAControlFrame :
    ((contending (tallyDue busy)).line.state = .contending ∧
      (contending (tallyDue busy)).arb.inHand = some ⟨.tally 2, false⟩ ∧
      ((contending (tallyDue busy)).entry 2).state = .opened) ∧
    ∀ p : Station, HandKind.tally 2 ≠ .message p := by decide +kernel

theorem witness_LossRestoresClaimAndSlot :
    ((contending (joinDue busy)).line.state = .contending ∧
      (contending (joinDue busy)).arb.inHand = some ⟨.join 5, false⟩ ∧ (contending (joinDue busy)).tx.tie = none) ∧
    LossCause.earlierStart ≠ .driveFault ∧ LossCause.arbitration ≠ .driveFault := by decide +kernel

theorem witness_LossRestoresClaimAndSlot_ties :
    ((contending busy).arb.inHand = some ⟨.message 2, false⟩ ∧ (contending busy).tx.tie = some ⟨0, 2, 0, 5, true⟩ ∧
      look (contending busy).tx.pool 0 = .held { queuedTo2 with state := .sending }) ∧
    (contending resendDue).tx.tie = some ⟨1, 2, 0, 4, false⟩ ∧
      look (contending resendDue).tx.pool 1 = .held flyingTo2 := by decide +kernel

theorem witness_CompletedFrameFreesTheLine :
    ((transmitting busy).line.state = .transmitting ∧ (transmitting busy).arb.inHand = some ⟨.message 2, false⟩) ∧
    (transmitting (joinDue busy)).line.state = .transmitting ∧
      (transmitting (joinDue busy)).arb.inHand = some ⟨.join 5, false⟩ := by decide +kernel

theorem witness_AbortMarksResend :
    (aborted 6 (transmitting busy)).line.state = .transmitting ∧ (aborted 6 (transmitting busy)).line.aborts < 7 ∧
      (aborted 6 (transmitting busy)).arb.inHand = some ⟨.message 2, false⟩ ∧
      (aborted 6 (transmitting busy)).tx.tie = some ⟨0, 2, 0, 5, true⟩ := by decide +kernel

theorem witness_EighthFailureMutes :
    ((aborted 6 (contending busy)).control.station = .active ∧ (aborted 6 (contending busy)).line.state = .contending ∧
      (aborted 6 (contending busy)).line.aborts < 7) ∧
    ((aborted 7 (contending busy)).line.state = .contending ∧ (aborted 7 (contending busy)).line.aborts = 7) ∧
    (aborted 7 (transmitting leaving)).control.station = .leaving ∧
      (aborted 7 (transmitting leaving)).line.state = .transmitting ∧
      (aborted 7 (transmitting leaving)).line.aborts = 7 := by decide +kernel

theorem witness_StartBitsAndDiscards :
    busy.line.state = .idle ∧ (busy.setLine (.receiving .gap)).line.state = .receiving .gap ∧
      (hearing busy).line.state = .receiving .frame := by decide +kernel

theorem witness_ReceptionFromAnyPhase :
    (isReception (.announceReceived 4 0x44) = true ∧ busy.port.attn = busy.attnLevel ∧
      exec .startBitReceived busy = .next (after .startBitReceived busy)) ∧
    ((contending busy).line.state = .contending ∧ (contending busy).port.attn = (contending busy).attnLevel ∧
      exec .startBitReceived (contending busy) = .next (after .startBitReceived (contending busy))) ∧
    ((transmitting busy).line.state = .transmitting ∧ (transmitting busy).port.attn = (transmitting busy).attnLevel ∧
      exec .startBitReceived (transmitting busy) = .next (after .startBitReceived (transmitting busy))) :=
  ⟨⟨rfl, by decide +kernel, rfl⟩, ⟨by decide +kernel, by decide +kernel, rfl⟩, by decide +kernel, by decide +kernel, rfl⟩

theorem witness_AnnounceByState :
    (Hears 4 (hearing busy) ∧ ((hearing busy).entry 4).state ≠ .opened) ∧
    Hears 2 (hearing busy) ∧ ((hearing busy).entry 2).state = .opened ∧ SlotLaw (hearing busy) :=
  ⟨by decide +kernel, by decide +kernel, by decide +kernel, by decide +kernel⟩

theorem witness_JoinByState :
    (Hears 7 (hearing busy) ∧ ((hearing busy).entry 7).state = .lost) ∧
    (Hears 4 (hearing busy) ∧ ((hearing busy).entry 4).state = .absent ∧ (0x4401 : Tag) ≠ 0) ∧
    (Hears 5 (hearing busy) ∧ ((hearing busy).entry 5).state = .joining ∧ (0x5505 : Tag) ≠ 0 ∧
      (0x1202 : Tag) = ((hearing busy).entry 5).ownTag ∧ ((hearing busy).entry 5).ownTag ≠ 0 ∧
      (classes.map ((hearing busy).toReserve 5)).sum ≤ countIn RxSlot.isFree (hearing busy).rx.pool) ∧
    (0 : Tag) ≠ ((hearing busy).entry 5).ownTag ∧
    (Hears 2 (hearing busy) ∧ ((hearing busy).entry 2).state = .opened ∧
      (0x3401 : Tag) = ((hearing busy).entry 2).peerTag) ∧
    (0x3402 : Tag) ≠ ((hearing busy).entry 2).peerTag ∧ SlotLaw (hearing busy) :=
  ⟨by decide +kernel, by decide +kernel, by decide +kernel, by decide +kernel, by decide +kernel, by decide +kernel,
    by decide +kernel⟩

theorem witness_SeverByTags :
    (Hears 5 (hearing busy) ∧ ((hearing busy).entry 5).state = .joining ∧ ((hearing busy).entry 5).ownTag = 0x1202 ∧
      ((hearing busy).entry 5).peerTag = 0x5505) ∧
    (Hears 2 (hearing busy) ∧ ((hearing busy).entry 2).state = .opened ∧ ((hearing busy).entry 2).ownTag = 0x1201 ∧
      ((hearing busy).entry 2).peerTag = 0x3401) ∧
    (Hears 4 (hearing busy) ∧ ((hearing busy).entry 4).state = .absent) ∧
    (0x3402 : Tag) ≠ ((hearing busy).entry 2).peerTag := by decide +kernel

theorem witness_StaleFramesAreAnswered :
    (Hears 7 (hearing busy) ∧ ((hearing busy).entry 7).state = .lost) ∧
    ((hearing leaving).control.station = .leaving ∧ (hearing leaving).line.state = .receiving .frame ∧
      (hearing leaving).own ≠ some 2) ∧
    (Hears 5 (hearing busy) ∧ ((hearing busy).entry 5).state = .joining ∧ (0x1202 : Tag) = ((hearing busy).entry 5).ownTag ∧
      (0x5505 : Tag) = ((hearing busy).entry 5).peerTag ∧
      (Instr.messageReceived 5 0x5505 0x1202 0 0 [1]).wellFormed = true) := by decide +kernel

theorem witness_HeardUpdateAlone :
    Hears 2 (hearing busy) ∧ (hearing leaving).control.station = .leaving ∧
      (hearing leaving).line.state = .receiving .frame ∧ (hearing leaving).own ≠ some 2 := by decide +kernel

theorem witness_OwnNumberMutes :
    (Instr.announceReceived 3 0x12).wellFormed = true ∧ receivedFrom (.announceReceived 3 0x12) = some 3 ∧
      ((hearing busy).own = some 3 ∧ (hearing busy).control.station = .active ∧ LineLaw (hearing busy) ∧
        (hearing busy).line.state = .receiving .frame) ∧
      (hearing leaving).control.station = .leaving ∧ LineLaw (hearing leaving) := by decide +kernel

/-- The condition of R96 on the pair of every class. -/
abbrev PairsFit (s : State) (p : Station) (pairs : PerClass TallyPair) : Prop :=
  ∀ c : Cls,
    dist (look2 s.tx.counters p c).acked (look pairs c).accepted ≤
      dist (look2 s.tx.counters p c).acked (look2 s.tx.counters p c).next ∧
    dist (look pairs c).accepted (look2 s.tx.counters p c).next ≤ dist (look pairs c).accepted (look pairs c).limit ∧
    dist (look pairs c).accepted (look pairs c).limit ≤ 8

theorem witness_TallyOnOpenSession :
    Hears 2 (hearing busy) ∧ ((hearing busy).entry 2).state = .opened ∧ ((hearing busy).entry 2).ownTag = 0x1201 ∧
      ((hearing busy).entry 2).peerTag = 0x3401 ∧ SlotLaw (hearing busy) ∧ PairsFit (hearing busy) 2 goodPairs ∧
      ¬ PairsFit (hearing busy) 2 badPairs :=
  ⟨by decide +kernel, by decide +kernel, by decide +kernel, by decide +kernel, by decide +kernel, by decide +kernel,
    by decide +kernel⟩

theorem witness_TallyOpensJoiningEntry :
    Hears 5 (hearing busy) ∧ ((hearing busy).entry 5).state = .joining ∧ ((hearing busy).entry 5).ownTag = 0x1202 ∧
      ((hearing busy).entry 5).peerTag = 0x5505 ∧
      exec (.joinReceived 5 0x5505 0x1202) (hearing busy) =
        .next (after (.joinReceived 5 0x5505 0x1202) (hearing busy)) :=
  ⟨by decide +kernel, by decide +kernel, by decide +kernel, by decide +kernel, rfl⟩

theorem witness_InSequenceMessage :
    Hears 2 (hearing busy) ∧ ((hearing busy).entry 2).state = .opened ∧ ((hearing busy).entry 2).ownTag = 0x1201 ∧
      ((hearing busy).entry 2).peerTag = 0x3401 ∧ 1 ≤ [0xAA#8].length ∧ (List.replicate 500 0xAA#8).length ≤ 500 ∧
      (look2 (hearing busy).rx.records 2 0).accepted = 1 ∧ 0 < (look2 (hearing busy).rx.records 2 0).reserved ∧
      (∃ i : RxIx, look (hearing busy).rx.pool i = .reserved 2 0) ∧
      (look2 (hearing busy).rx.records 2 1).accepted = 0 ∧ (look2 (hearing busy).rx.records 2 1).reserved = 0 := by
  decide +kernel

theorem witness_DuplicateOrGapIsDiscarded :
    (0 : Count) ≠ (look2 (hearing busy).rx.records 2 0).accepted ∧
      (2 : Count) ≠ (look2 (hearing busy).rx.records 2 0).accepted ∧ Hears 2 (hearing busy) := by decide +kernel

/-- With peer 5 at its join attempts limit, and peer 2 at its retry limit. -/
def spent : State :=
  { busy with
    session := put busy.session 5 { joining5 with joinAttempts := 5 }
    tx := { busy.tx with retries := put busy.tx.retries 2 3 } }

theorem witness_SessionTimersExpire :
    ((busy.entry 5).state = .joining ∧ (busy.entry 5).joinTimer.isRunning = true ∧
      (busy.entry 5).joinAttempts < busy.record.joinAttempts) ∧
    ((spent.entry 5).state = .joining ∧ (spent.entry 5).joinTimer.isRunning = true ∧
      spent.record.joinAttempts ≤ (spent.entry 5).joinAttempts) ∧
    ((busy.entry 7).state = .lost ∧ (busy.entry 7).holdDownTimer.isRunning = true) ∧
    (busy.entry 2).state = .opened ∧ (busy.entry 2).silenceTimer.isRunning = true ∧
      (busy.entry 2).refreshTimer.isRunning = true := by decide +kernel

theorem witness_AckTimerExpires :
    ((look busy.tx.ackTimers 2).isRunning = true ∧ look busy.tx.retries 2 < busy.record.retryLimit) ∧
    (look spent.tx.ackTimers 2).isRunning = true ∧ spent.record.retryLimit ≤ look spent.tx.retries 2 ∧
      (spent.entry 2).state = .opened := by decide +kernel

theorem witness_FrameRoundTrip :
    (Frame.message 6 9 0x0207 0x1103 2 4 [1]).wellFormed = true ∧
      (Frame.message 6 9 0x0207 0x1103 2 4 (List.replicate 500 1)).wellFormed = true ∧
      (Frame.announce 1 0x21).wellFormed = true := by decide +kernel

theorem witness_MosiRoundTrip :
    (Instr.submit 9 2 0x0A41 3 [1, 2, 3]).wellFormed = true ∧
      mosiOf (.submit 9 2 0x0A41 3 [1, 2, 3]) = some [0x20, 0x09, 0x02, 0x0A, 0x41, 0x00, 0x03, 1, 2, 3] ∧
      (List.replicate 7 true).length < 8 ∧ ([] : List Bool).length < 8 := by
  decide +kernel

end Sys2Proof.Tests
end

