-- ==== Sys2Proof/Proofs/MessageReception.lean ====
section
/-! PROOFS. A MESSAGE on an OPEN session (R39 to R42): the way from `exec` to the Receive Unit, what every such MESSAGE
leaves behind, and from these the two statements on a MESSAGE in sequence and one out of sequence. -/

namespace Sys2Proof.Machine

/-! ## The way in, and what every matching MESSAGE leaves behind -/

/-- A matching MESSAGE of an OPEN session, of a length no check discards, reaches the Receive Unit after the heard
update (R8, R39). -/
theorem exec_messageReceived_opened {s : State} {p : Station} {srcTag dstTag : Tag} {payload : List Byte} (c : Cls)
    (seq : Count) (hears : Hears p s) (opened : (s.entry p).state = .opened)
    (hmatch : (s.entry p).matchesTags srcTag dstTag = true) (hmin : 1 ≤ payload.length)
    (hmax : payload.length ≤ 500) :
    exec (.messageReceived p srcTag dstTag c seq payload) s =
      .next ((s.afterFrame p).receiveMessage p c seq payload).driveAttn := by
  have hmatch' : ((s.afterFrame p).entry p).matchesTags srcTag dstTag = true := by simpa using hmatch
  have opened' : ((s.afterFrame p).entry p).state = .opened := by simpa using opened
  rw [exec_messageReceived, if_neg (payload_in_range hmin hmax), frameReceived_active hears,
    handleMessage_opened c seq payload hmatch' opened', done_eq]

/-- Where neither the peer table nor the line is written after the frame's way in, the sender has been heard, the other
entries stand and the line reads the gap (R8, R125). What is written elsewhere, `hwrites`, goes along, so that this is
the end of each statement on a reception. -/
theorem heard_frameEnded_onlyWrites {s t : State} {p : Station} {written : List Block}
    (hsession : t.session = (s.afterFrame p).session) (hline : t.line = (s.afterFrame p).line)
    (hwrites : OnlyWrites written s t) :
    t.entry p = s.heardEntry p ∧ OthersKeep p s t ∧ FrameEnded s t ∧ OnlyWrites written s t := by
  have hput : t.session = put s.session p (s.heardEntry p) := hsession.trans (afterFrame_session s p)
  exact ⟨entry_put hput, othersKeep_put hput, hline.trans (afterFrame_line s p), hwrites⟩

/-- The slot an acceptance takes is RESERVED for its peer and class, and there is one where any slot is (R40). -/
theorem findIx_reserved {pool : Vector RxSlot Config.rxSlots} {p : Station} {c : Cls}
    (h : ∃ i : RxIx, look pool i = .reserved p c) :
    ∃ i : RxIx, findIx (RxSlot.isReserved p c) pool = some i ∧ look pool i = .reserved p c := by
  cases hfind : findIx (RxSlot.isReserved p c) pool with
  | none =>
    obtain ⟨i, hi⟩ := h
    have hnot := findIx_none.mp hfind i
    simp [RxSlot.isReserved, hi] at hnot
  | some i => exact ⟨i, rfl, by simpa [RxSlot.isReserved] using findIx_some hfind⟩

/-! ## The statements -/

/-- Settles O50: the in-sequence MESSAGE finds its RESERVED slot and is accepted, or finds no reservation and is a
credit overrun (R40, R42). -/
theorem inSequenceMessage : Obligations.InSequenceMessage := by
  intro s p srcTag dstTag c seq payload hears opened hown hpeer hsrc hdst hmin hmax hseq
  have hexec := exec_messageReceived_opened c seq hears opened
    ((matchesTags_iff _ _ _).mpr ⟨hown, hpeer, hsrc, hdst⟩) hmin hmax
  have hseq' : seq = (look2 (s.afterFrame p).rx.records p c).accepted := by simpa using hseq
  refine ⟨fun hreserved hslot => ?accepted, fun hnone => ?overrun⟩
  case accepted =>
    obtain ⟨i, hfind, hi⟩ := findIx_reserved hslot
    rw [receiveMessage_accepted payload hseq' (by simpa using hreserved) (by simpa using hfind)] at hexec
    refine ⟨_, i, hexec, hi, ?rx, ?arb, heard_frameEnded_onlyWrites (by simp) (by simp) (by simp [OnlyWrites])⟩
    case rx => simp
    case arb => simp [Arbiter.claimTally]
  case overrun =>
    rw [receiveMessage_overrun payload hseq' (by simpa using hnone)] at hexec
    refine ⟨_, hexec, ?control, ?port, ?arb, heard_frameEnded_onlyWrites (by simp) (by simp) (by simp [OnlyWrites])⟩
    case control => simp [FaultFlags.set]
    case port => simp [PortNotes, PortBecomes, onCommand_noteFault, HostPort.noted]
    case arb => simp [Arbiter.claimTally]

/-- Settles O51: a seq other than A posts the TALLY claim and does nothing more (R41). -/
theorem duplicateOrGapIsDiscarded : Obligations.DuplicateOrGapIsDiscarded := by
  intro s p srcTag dstTag c seq payload hears opened hown hpeer hsrc hdst hmin hmax hseq
  have hexec := exec_messageReceived_opened c seq hears opened
    ((matchesTags_iff _ _ _).mpr ⟨hown, hpeer, hsrc, hdst⟩) hmin hmax
  rw [receiveMessage_other payload (by simpa using hseq)] at hexec
  refine ⟨_, hexec, ?rx, ?arb, ?errors, ?faults,
    heard_frameEnded_onlyWrites (by simp) (by simp) (by simp [OnlyWrites])⟩
  case arb => simp [Arbiter.claimTally]
  all_goals simp

end Sys2Proof.Machine
end

