-- ==== Sys2Proof/Proofs/ReceiveReads.lean ====
section
/-! PROOFS. TAKE and PEEK at their class byte (R57, R58, R62, R63): how the transaction stands once it has taken a
command that touches the port alone, what each of the two does where no message is shown, and from these the statement
on an empty queue. -/

namespace Sys2Proof.Machine

/-! ## A command that only answers -/

/-- A command whose whole effect is that the transaction takes `c` with `reply` answers so and writes the port alone
(R138). -/
theorem onCommand_taken_answers {s : State} {x : Transaction} (hopen : s.openTxn = some x) {effect : State → State}
    {c : TxnCommand} {reply : List Byte} (heffect : effect s = s.taken c reply) :
    ∃ t : State, done (s.onCommand effect) = .next t ∧ Answers x c reply s t ∧ OnlyWrites [.port] s t := by
  obtain ⟨htxn, -⟩ := openTxn_some hopen
  refine ⟨(s.taken c reply).driveAttn, ?next, answers_taken htxn c reply rfl, ?frame⟩
  case next => rw [onCommand_open hopen, heffect, done_eq]
  case frame => simp [OnlyWrites]

/-! ## No message shown -/

/-- The five bytes of R58 where no message is shown. -/
theorem emptyHeader_eq (classByte : Byte) : emptyHeader classByte = [0, classByte, 0, 0, 0] := rfl

section Nothing
variable {s : State} {classByte : Byte} (inRange : classChoice classByte ≠ .outOfRange)
  (nothing : s.rx.shown (classChoice classByte) = none)
include inRange nothing

/-- A TAKE in range that shows no message is decided EMPTY (R58, R62). -/
theorem takeEffect_nothing :
    takeEffect classByte s = s.taken (.decided .empty) [0, classByte, 0, 0, 0] := by
  unfold takeEffect
  split
  case h_1 out => exact absurd out inRange
  case h_2 => rw [nothing, emptyHeader_eq]

/-- A PEEK in range that shows no message is decided EMPTY (R58, R63). -/
theorem peekEffect_nothing :
    peekEffect classByte s = s.taken (.decided .empty) [0, classByte, 0, 0, 0] := by
  unfold peekEffect
  split
  case h_1 out => exact absurd out inRange
  case h_2 => rw [nothing, emptyHeader_eq]

end Nothing

/-! ## The statement -/

/-- Settles O19: an empty queue, or ANY with all four empty, has no head to show, so both commands take the open
transaction with the empty header and the result EMPTY, and the port is all they write (R57, R58, R62, R63). -/
theorem takeAndPeekOfNothing : Obligations.TakeAndPeekOfNothing := by
  intro s x classByte hopen hempty
  obtain ⟨inRange, nothing⟩ := shown_nothing hempty
  rw [exec_take, exec_peek]
  exact ⟨onCommand_taken_answers hopen (takeEffect_nothing inRange nothing),
    onCommand_taken_answers hopen (peekEffect_nothing inRange nothing)⟩

end Sys2Proof.Machine
end

