-- ==== Sys2Proof/Proofs/FrameCompletion.lean ====
section
/-! PROOFS. The completion of a frame (R128): what becomes of the arbiter's record and the yield flag by the kind of the
frame in hand (R115, R117), the state a transmitting station is left in, and from these the statement. -/

namespace Sys2Proof.Machine

/-! ## The record and the yield flag -/

section Record
variable {a : Arbiter} {h : InHand} (inHand : a.inHand = some h)
include inHand

/-- A completed MESSAGE sets the yield flag (R115). -/
theorem completed_of_message (message : ∃ p : Station, h.kind = .message p) :
    a.completed = { a with inHand := none, yield := true } := by
  obtain ⟨kind, withdrawn⟩ := h
  obtain ⟨p, rfl⟩ := message
  rw [Arbiter.completed, inHand]

/-- A completed frame of any other kind leaves the yield flag (R115). -/
theorem completed_of_not_message (other : ∀ p : Station, h.kind ≠ .message p) :
    a.completed = { a with inHand := none } := by
  obtain ⟨kind, withdrawn⟩ := h
  cases kind with
  | message p => exact absurd rfl (other p)
  | announce | sever | join | tally => rw [Arbiter.completed, inHand]

end Record

/-! ## The line -/

/-- On a transmitting station FRAME_COMPLETED ends the record and the tie, empties the buffer, clears the
consecutive-abort count and reads the gap (R117, R128). -/
theorem frameCompletedEffect_transmitting {s : State} (transmitting : s.line.state = .transmitting) :
    frameCompletedEffect s =
      { s with
        arb := s.arb.completed
        tx := { s.tx with tie := none }
        line := { s.line with state := .receiving .gap, outbound := none, aborts := 0 } } :=
  if_pos transmitting

/-! ## The statement -/

/-- Settles O37: the line and the tie are as the effect leaves them for every frame, and the kind of the frame in hand
decides the yield flag (R115, R117, R128). -/
theorem completedFrameFreesTheLine : Obligations.CompletedFrameFreesTheLine := by
  intro s h transmitting inHand
  have hexec := exec_frameCompleted s
  rw [frameCompletedEffect_transmitting transmitting, done_eq] at hexec
  exact ⟨_, hexec, rfl, completed_of_message inHand, completed_of_not_message inHand, rfl, by simp [OnlyWrites]⟩

end Sys2Proof.Machine
end

/-! PROOFS. A TAKE or PEEK whose class byte, or a PEERS whose peer byte, is out of range (R165, R166): what a refusal
leaves MISO carrying, what becomes of its transaction when CS rises, and from these the two statements on a refusal. -/

namespace Sys2Proof.Machine

/-! ## An answered transaction -/

section Answered
variable {s t : State} {x : Transaction} {c : TxnCommand} {reply : List Byte}

/-- A transaction that has taken a command stays open with it (R138, R143). -/
theorem txn_of_answers (h : Answers x c reply s t) :
    t.port.txn = some { x with command := c, reply := reply } :=
  congrArg HostPort.txn h

/-- With CS low and RST high, an answer's bytes stand on MISO from byte 2, and zeros behind them (R138). -/
theorem miso_of_answers (h : Answers x c reply s t) (hcs : s.port.cs = .low) (hrst : s.port.rst = .high) (k : Nat) :
    t.miso (k + 2) = some (reply.getD k 0) := by
  have hcs' : t.port.cs = .low := (congrArg HostPort.cs h).trans hcs
  have hrst' : t.port.rst = .high := (congrArg HostPort.rst h).trans hrst
  rw [State.miso, if_pos ⟨hcs', hrst'⟩, txn_of_answers h]
  rfl

end Answered

/-! ## CS rises -/

/-- The transaction open when CS rises leaves its command's result, and the port is all that is written (R140, R142). -/
theorem transactionEnd_writes_result {s : State} {x : Transaction} (htxn : s.port.txn = some x) :
    ∃ u : State, exec .transactionEnd s = .next u ∧ u.port.prevResult = x.command.result ∧ OnlyWrites [.port] s u := by
  rw [exec_transactionEnd, done_eq]
  exact ⟨_, rfl, by simp [HostPort.endTransaction, htxn], by simp [OnlyWrites]⟩

/-- A transaction whose result is decided leaves that result whenever CS rises (R140). -/
theorem transactionEnd_of_ends {s t : State} {x : Transaction} {r : Result} (h : Ends x r s t) :
    ∃ u : State, exec .transactionEnd t = .next u ∧ u.port.prevResult = r ∧ OnlyWrites [.port] t u :=
  transactionEnd_writes_result (txn_of_answers h)

/-- A transaction that has taken no command ends SHORT (R142). -/
theorem transactionEnd_short {s : State} {x : Transaction} (hopen : s.openTxn = some x) :
    ∃ u : State, exec .transactionEnd s = .next u ∧ u.port.prevResult = .short ∧ OnlyWrites [.port] s u := by
  obtain ⟨htxn, hnone⟩ := openTxn_some hopen
  have hshort : x.command.result = .short := by rw [hnone]; rfl
  rw [← hshort]
  exact transactionEnd_writes_result htxn

/-! ## A refusal -/

/-- A command refused with `r` decides its transaction, writes the port alone and drives MISO with zeros (R138,
R140). -/
theorem onCommand_refused {s : State} {x : Transaction} (law : PortLaw s) (hopen : s.openTxn = some x)
    {effect : State → State} {r : Result} (heffect : effect s = s.decided r) :
    ∃ t : State, done (s.onCommand effect) = .next t ∧ Ends x r s t ∧ OnlyWrites [.port] s t ∧
      ∀ k : Nat, t.miso (k + 2) = some 0 := by
  obtain ⟨htxn, -⟩ := openTxn_some hopen
  obtain ⟨hpins, -⟩ := law
  obtain ⟨hcs, hrst⟩ := hpins (by rw [htxn]; rfl)
  obtain ⟨t, hnext, hends, hwrites⟩ := onCommand_taken_answers hopen heffect
  exact ⟨t, hnext, hends, hwrites, miso_of_answers hends hcs hrst⟩

/-- A TAKE of a class byte out of range is decided BAD_CLASS (R166). -/
theorem takeEffect_outOfRange {classByte : Byte} (out : classChoice classByte = .outOfRange) (s : State) :
    takeEffect classByte s = s.decided .badClass := by
  rw [takeEffect, out]

/-- A PEEK of a class byte out of range is decided BAD_CLASS (R166). -/
theorem peekEffect_outOfRange {classByte : Byte} (out : classChoice classByte = .outOfRange) (s : State) :
    peekEffect classByte s = s.decided .badClass := by
  rw [peekEffect, out]

/-- A PEERS of a byte that names no station is decided BAD_DEST (R165). -/
theorem peersEffect_outOfRange {peerByte : Byte} (out : stationOf peerByte = none) (s : State) :
    peersEffect peerByte s = s.decided .badDest := by
  rw [peersEffect, out]

/-- A transaction whose result is decided shows no peer, so the end of a PEERS read clears no changed flag (R147). -/
theorem peersReadClear_of_ends {s t : State} {x : Transaction} {r : Result} (h : Ends x r s t) :
    ∃ v : State, exec .peersReadClear t = .next v ∧ OnlyWrites [] t v := by
  have hcommand : t.command = some (.decided r) := by rw [State.command, txn_of_answers h]; rfl
  rw [exec_peersReadClear, peersReadClearEffect, hcommand, done_eq]
  exact ⟨_, rfl, by simp [OnlyWrites]⟩

/-! ## The statements -/

/-- Settles O20: the byte is out of range for both commands, so each is refused BAD_CLASS, and the refusal is the result
that CS rising writes (R140, R166). -/
theorem classByteOutOfRange : Obligations.ClassByteOutOfRange := by
  intro s x classByte i law hopen hmin hmax hi
  have out := classChoice_outOfRange hmin hmax
  have refused : ∃ t : State, exec i s = .next t ∧ Ends x .badClass s t ∧ OnlyWrites [.port] s t ∧
      ∀ k : Nat, t.miso (k + 2) = some 0 := by
    obtain rfl | rfl := hi
    case inl =>
      rw [exec_take]
      exact onCommand_refused law hopen (takeEffect_outOfRange out s)
    case inr =>
      rw [exec_peek]
      exact onCommand_refused law hopen (peekEffect_outOfRange out s)
  obtain ⟨t, hnext, hends, hwrites, hmiso⟩ := refused
  obtain ⟨u, hrise⟩ := transactionEnd_of_ends hends
  exact ⟨t, u, hnext, hends, hwrites, hmiso, hrise⟩

/-- Settles O25: the byte names no station, so the PEERS is refused BAD_DEST with nothing for a read-clear to clear, and
before the byte the transaction has taken no command (R142, R165). -/
theorem peerByteOutOfRange : Obligations.PeerByteOutOfRange := by
  intro s x peerByte law hopen hmin
  refine ⟨?refused, transactionEnd_short hopen⟩
  case refused =>
    obtain ⟨t, hnext, hends, hwrites, hmiso⟩ :=
      onCommand_refused law hopen (peersEffect_outOfRange (stationOf_none hmin) s)
    obtain ⟨v, hclear, hkept⟩ := peersReadClear_of_ends hends
    obtain ⟨u, hrise⟩ := transactionEnd_of_ends hends
    exact ⟨t, u, v, (exec_peers s peerByte).trans hnext, hends, hwrites, hmiso, hclear, hkept, hrise⟩

end Sys2Proof.Machine

/-! PROOFS. What a step can do, said once: every command but a reset, and the tick of the time base, is a run of
a few kinds of moves, each with the conditions under which the model makes it. A law that every move keeps, and that
holds after a reset, is kept by every step; the four statements on laws are proved move by move. -/

namespace Sys2Proof.Machine

/-! ## The moves -/

/-- What a command of the open transaction shows now: a TAKE the head of its queue, a COMPLETIONS no more records than
the completion queue has (R57, R80). -/
structure State.Fits (s : State) (c : TxnCommand) : Prop where
  take : ∀ (d : Cls) (i : RxIx), c = .take d i false → (look s.rx.queues d).head? = some i
  left : ∀ n ∈ c.recordsLeft, n ≤ s.tx.completions.length

/-- The port may become `h`: a transaction is open then with a command that was there before or fits now, and with the
pins it had or with those of CS falling (R137, R161). -/
def State.MayPort (s : State) (h : HostPort) : Prop :=
  ∀ x ∈ h.txn, (s.Fits x.command ∨ ∃ y ∈ s.port.txn, x.command = y.command) ∧
    (s.port.txn.isSome = true ∧ (h.cs = s.port.cs ∨ h.cs = .low) ∧ h.rst = s.port.rst ∨ h.cs = .low ∧ h.rst = .high)

/-- An entry may become `f` without a change of its state: its tags stay, but for the peer tag a JOIN teaches (R17), and
each timer runs as before or as the state has it (section 1.3). -/
structure PeerEntry.MayBecome (e f : PeerEntry) : Prop where
  state : f.state = e.state
  ownTag : f.ownTag = e.ownTag
  peerTag : f.peerTag = e.peerTag ∨ e.state = .joining
  join : f.joinTimer.isRunning = e.joinTimer.isRunning ∨ f.joinTimer.isRunning = decide (e.state = .joining)
  holdDown : f.holdDownTimer.isRunning = e.holdDownTimer.isRunning ∨
    f.holdDownTimer.isRunning = decide (e.state = .lost)
  silence : f.silenceTimer.isRunning = e.silenceTimer.isRunning ∨
    f.silenceTimer.isRunning = decide (e.state = .opened)
  refresh : f.refreshTimer.isRunning = e.refreshTimer.isRunning ∨
    f.refreshTimer.isRunning = decide (e.state = .opened)
  reset : e = .reset → f = .reset

/-- The arbiter may become `a`: a JOIN or TALLY claim is new only in its entry's state, and the frame in hand is the
same, withdrawn or not (R111, R118). -/
structure State.MayArb (s : State) (a : Arbiter) : Prop where
  joins : ∀ p, look a.joins p = true → look s.arb.joins p = true ∨ (s.entry p).state = .joining
  tallies : ∀ p, look a.tallies p = true → look s.arb.tallies p = true ∨ (s.entry p).state = .opened
  kind : a.inHand.map (·.kind) = s.arb.inHand.map (·.kind)
  live : ∀ k, a.inHand = some ⟨k, false⟩ → s.arb.inHand = some ⟨k, false⟩

/-- Is no frame of this station on the line, which reads or idles (R124)? -/
def LineState.isListening : LineState → Bool
  | .idle | .receiving _ => true
  | _ => false

/-- What becomes of the Transmit Unit alone: an accepted SUBMIT, a CANCEL, a valid TALLY, the ack timer's expiry. -/
inductive TxMove (s : State) : TransmitUnit → Prop
  | enqueue {i : TxIx} {p : Station} {c : Cls} {hostTag : BitVec 16} {payload : List Byte}
      (free : look s.tx.pool i = .free) (min : 1 ≤ payload.length) (max : payload.length ≤ 500) :
      TxMove s (s.tx.enqueue i p c hostTag payload)
  | withdraw {p : Station} {i : TxIx} {r : TxRecord} (held : look s.tx.pool i = .held r) (dest : r.destination = p)
      (queued : r.state = .queued) : TxMove s (s.tx.withdraw p r.cls i)
  | tally {p : Station} {pairs : PerClass TallyPair} {k : Nat} (opened : (s.entry p).state = .opened)
      (valid : s.tx.tallyValid p pairs = true) (gap : s.line.state = .receiving .gap) :
      TxMove s (s.tx.applyTally p pairs k)
  | retry {p : Station} : TxMove s ((s.tx.stopAck p).retry p)
  | stopAck {p : Station} : TxMove s (s.tx.stopAck p)

/-- One move of the station, with the conditions under which it is made. -/
inductive Move : State → State → Prop
  | port {s : State} {h : HostPort} (may : s.MayPort h) (rst : h.rst = s.port.rst) : Move s { s with port := h }
  | control {s : State} {c : StationControl} (station : c.station = s.control.station)
      (config : c.config = s.control.config) (tags : c.tagCounter = s.control.tagCounter) :
      Move s { s with control := c }
  | entry {s : State} {p : Station} {f : PeerEntry} (may : (s.entry p).MayBecome f) : Move s (s.setEntry p f)
  | arb {s : State} {a : Arbiter} (may : s.MayArb a) : Move s { s with arb := a }
  | line {s : State} {l : LineUnit} (before : s.line.state.isListening = true) (after : l.state.isListening = true)
      (buffer : l.outbound = s.line.outbound) (aborts : l.aborts = s.line.aborts)
      (errors : l.errors ≤ s.line.errors ∨ l.errors ≤ 255)
      (marker : l.marker = true →
        s.line.marker = true ∧ (l.state = .receiving .gap ∨ s.line.state ≠ .receiving .gap)) : Move s { s with line := l }
  | errors {s : State} {n : Nat} (le : n ≤ s.line.errors) : Move s { s with line := { s.line with errors := n } }
  | tx {s : State} {u : TransmitUnit} (move : TxMove s u) : Move s { s with tx := u }
  | freshJoining {s : State} {p : Station} {tag : Tag} (notOpen : (s.entry p).state ≠ .opened)
      (may : s.control.station = .active ∧ s.own ≠ some p ∨ (s.entry p).state = .lost) :
      Move s (s.freshJoining p tag)
  | openSession {s : State} {p : Station} (joining : (s.entry p).state = .joining)
      (ownTag : (s.entry p).ownTag ≠ 0) (peerTag : (s.entry p).peerTag ≠ 0) : Move s (s.openSession p)
  | closeSession {s : State} {p : Station} {reason : CloseReason} (live : (s.entry p).state ≠ .absent)
      (notRestart : reason ≠ .restart) (notNone : reason ≠ .none) : Move s (s.closeSession reason p)
  | restart {s : State} {p : Station} {tag : Tag} (opened : (s.entry p).state = .opened)
      (gap : s.line.state = .receiving .gap) : Move s (s.restartSession p tag)
  | accept {s : State} {p : Station} {c : Cls} {payload : List Byte} (opened : (s.entry p).state = .opened)
      (reserved : 0 < (look2 s.rx.records p c).reserved) : Move s { s with rx := s.rx.accept p c payload }
  | release {s : State} {c : Cls} {i : RxIx} (command : s.command = some (.take c i false)) :
      Move s (((s.dequeue c i).releaseSlot i).setCommand (.take c i true))
  | pop {s : State} {left : Nat} (command : s.command = some (.completions (left + 1))) :
      Move s ({ s with tx := s.tx.popCompletion }.setCommand (.completions left))
  | config {s : State} {image : ConfigImage} {r : ConfigRecord} (valid : validRecord image = some r)
      (station : s.control.station = .unconfigured ∨
        s.control.station = .configured ∧ s.rx.anyOccupied = false) : Move s (s.applyConfig r)
  | start {s : State} (configured : s.control.station = .configured) :
      Move s (({ s.setStation .active with arb := { s.arb with announce := true } }.setMarker false).setLine
        (.receiving .unsynchronized))
  | leave {s : State} (absent : ∀ p, (s.entry p).state = .absent) (active : s.control.station = .active) :
      Move s { s.setStation .leaving with arb := s.arb.clearAnnounce }
  | drained {s : State} (leaving : s.control.station = .leaving) (empty : s.arb.isDrained = true) :
      Move s ((s.setStation .configured).goSilent.idleEnded)
  | mute {s : State} {n : Nat} (absent : ∀ p, (s.entry p).state = .absent) (le : n ≤ 8 ∨ n = s.line.aborts)
      (running : s.control.station = .active ∨ s.control.station = .leaving) :
      Move s { s.setStation .muted with
        arb := s.arb.mute, line := { s.line with aborts := n } }.goSilent
  | build {s : State} {ch : Choice} (may : s.maySelect = true) (choice : s.select = some ch) : Move s (s.build ch)
  | lose {s : State} {phase : ReadPhase} (contending : s.line.state = .contending) : Move s (s.loseFrame phase)
  | won {s : State} {u : TransmitUnit} (contending : s.line.state = .contending)
      (taken : (∃ k, u = s.tx.won k) ∨ u = s.tx ∧ ∀ p, s.arb.inHand.map (·.kind) ≠ some (.message p)) :
      Move s ({ s with tx := u }.setLine .transmitting)
  | completed {s : State} (transmitting : s.line.state = .transmitting) : Move s (frameCompletedEffect s)
  | aborted {s : State} (transmitting : s.line.state = .transmitting) :
      Move s (s.abortedNotice.emptyBuffer.setLine (.receiving .gap))
  | marked {s : State} {n : Nat} (gap : s.line.state = .receiving .gap)
      (le : n ≤ 7 ∨ n = s.line.aborts ∨ s.control.station ≠ .active ∧ s.control.station ≠ .leaving) :
      Move s { s with line := { s.line with marker := true, aborts := n } }
  | draw {s : State} {n : Nat} : Move s { s with draws := n }
  | countDown {s : State} : Move s s.countDown

/-- A run of moves. -/
abbrev Reaches : State → State → Prop := Relation.ReflTransGen Move

/-- What every move keeps, a run of moves keeps. -/
theorem kept_of_moves {P : State → Prop} (keeps : ∀ s t, P s → Move s t → P t) {s t : State} (h : Reaches s t)
    (hs : P s) : P t := by
  induction h with
  | refl => exact hs
  | tail _ hm ih => exact keeps _ _ ih hm

theorem Move.reaches {s t : State} (h : Move s t) : Reaches s t := .single h

/-! ## The port -/

section Port
variable {s : State}

/-- A transaction's command that shows nothing of a queue fits in every state. -/
theorem fits_of_shows_nothing {c : TxnCommand} (take : ∀ d i, c ≠ .take d i false)
    (left : c.recordsLeft = none) : s.Fits c :=
  ⟨fun d i h => absurd h (take d i), by simp [left]⟩

theorem fits_decided (r : Result) : s.Fits (.decided r) := fits_of_shows_nothing (by simp) rfl

/-- An open transaction takes a command that fits. -/
theorem taken_moves {c : TxnCommand} (fits : s.Fits c) (reply : List Byte) : Reaches s (s.taken c reply) := by
  refine (Move.port (s := s) ?_ (by rfl)).reaches
  intro x hx
  obtain ⟨y, hy, rfl⟩ := Option.map_eq_some_iff.mp hx
  exact ⟨.inl fits, .inl ⟨by simp [hy], .inl rfl, rfl⟩⟩

theorem decided_moves (r : Result) : Reaches s (s.decided r) := taken_moves (fits_decided r) []

/-- The open transaction's command is kept or replaced by one that fits. -/
theorem onCommand_port_moves {f : TxnCommand → TxnCommand} (fits : ∀ c, f c = c ∨ s.Fits (f c)) :
    Reaches s { s with port := s.port.onCommand f } := by
  refine (Move.port (s := s) ?_ (by rfl)).reaches
  intro x hx
  obtain ⟨y, hy, rfl⟩ := Option.map_eq_some_iff.mp hx
  refine ⟨?_, .inl ⟨by simp [hy], .inl rfl, rfl⟩⟩
  obtain h | h := fits y.command
  · exact .inr ⟨y, hy, h⟩
  · exact .inl h

theorem setCommand_moves {c : TxnCommand} (fits : s.Fits c) : Reaches s (s.setCommand c) :=
  onCommand_port_moves fun _ => .inr fits

theorem setFault_moves (f : FaultName) : Reaches s (s.setFault f) := by
  have hc : Move s { s with control := { s.control with faults := s.control.faults.set f } } := .control rfl rfl rfl
  refine hc.reaches.trans (onCommand_port_moves (s := { s with control := _ }) (f := .noteFault f) fun c => ?_)
  cases c with
  | status shown errors since full => exact .inr (fits_of_shows_nothing (by simp [TxnCommand.noteFault]) rfl)
  | _ => exact .inl rfl

theorem driveAttn_moves : Reaches s s.driveAttn := by
  refine (Move.port (s := s) ?_ (by rfl)).reaches
  intro x hx
  exact ⟨.inr ⟨x, hx, rfl⟩, .inl ⟨by simp [show s.port.txn = some x from hx], .inl rfl, rfl⟩⟩

theorem fillStaging_moves (payload : List Byte) : Reaches s (s.fillStaging payload) := by
  refine (Move.port (s := s) ?_ (by rfl)).reaches
  intro x hx
  exact ⟨.inr ⟨x, hx, rfl⟩, .inl ⟨by simp [show s.port.txn = some x from hx], .inl rfl, rfl⟩⟩

theorem endTransaction_moves : Reaches s { s with port := s.port.endTransaction } := by
  have hend : s.port.endTransaction.txn = none ∧ s.port.endTransaction.rst = s.port.rst := by
    unfold HostPort.endTransaction
    split
    next => exact ⟨rfl, rfl⟩
    next h => exact ⟨h, rfl⟩
  refine (Move.port (s := s) (fun x hx => ?_) hend.2).reaches
  rw [hend.1] at hx
  cases hx

/-- CS falling opens a transaction, or with RST low leaves the port waiting (R137, R151). -/
theorem beginTransaction_moves : Reaches s s.beginTransaction := by
  unfold State.beginTransaction
  split
  next hcs hrst =>
    refine (Move.port (s := s) (fun x hx => ?_) (by rfl)).reaches
    cases hx
    exact ⟨.inl (fits_of_shows_nothing (by simp) rfl), .inr ⟨rfl, hrst⟩⟩
  next hcs hrst =>
    refine (Move.port (s := s) (fun x hx => ?_) (by rfl)).reaches
    exact ⟨.inr ⟨x, hx, rfl⟩, .inl ⟨by simp [show s.port.txn = some x from hx], .inr rfl, rfl⟩⟩
  next => exact .refl

/-- A host command makes the moves of its effect, or none (R138). -/
theorem onCommand_moves {effect : State → State} (h : Reaches s (effect s)) : Reaches s (s.onCommand effect) := by
  unfold State.onCommand
  split
  · exact h
  · exact .refl

end Port

/-! ## Claims, closes and faults -/

section Sessions
variable {s : State}

/-- An arbiter whose JOIN and TALLY sets and whose hand are as before. -/
theorem arb_moves {a : Arbiter} (joins : a.joins = s.arb.joins) (tallies : a.tallies = s.arb.tallies)
    (inHand : a.inHand = s.arb.inHand) : Reaches s { s with arb := a } :=
  (Move.arb (s := s) ⟨fun p h => .inl (by rwa [joins] at h), fun p h => .inl (by rwa [tallies] at h),
    by rw [inHand], fun k h => by rwa [inHand] at h⟩).reaches

theorem idleEnded_moves : Reaches s s.idleEnded := arb_moves rfl rfl rfl

theorem staleSever_moves (p : Station) (a b : Tag) : Reaches s (s.staleSever p a b) := arb_moves rfl rfl rfl

theorem claimTally_moves {p : Station} (opened : (s.entry p).state = .opened) : Reaches s (s.claimTally p) := by
  refine (Move.arb (s := s) (a := s.arb.claimTally p) ⟨fun q h => .inl h, fun q h => ?_, rfl, fun k h => h⟩).reaches
  obtain rfl | hq := eq_or_ne p q
  · exact .inr opened
  · exact .inl (by simpa [Arbiter.claimTally, look_put_ne _ _ hq] using h)

theorem claimJoin_moves {p : Station} (joining : (s.entry p).state = .joining) : Reaches s (s.claimJoin p) := by
  refine (Move.arb (s := s) (a := s.arb.claimJoin p) ⟨fun q h => ?_, fun q h => .inl h, rfl, fun k h => h⟩).reaches
  obtain rfl | hq := eq_or_ne p q
  · exact .inr joining
  · exact .inl (by simpa [Arbiter.claimJoin, look_put_ne _ _ hq] using h)

/-- The closes of peers that are not ABSENT, each once (R14). -/
theorem closes_moves {reason : CloseReason} (notRestart : reason ≠ .restart) (notNone : reason ≠ .none)
    (ps : List Station) (hn : ps.Nodup) (live : ∀ p ∈ ps, (s.entry p).state ≠ .absent) :
    Reaches s (ps.foldl (fun t p => t.closeSession reason p) s) := by
  induction ps generalizing s with
  | nil => exact .refl
  | cons p ps ih =>
    obtain ⟨hp, hn⟩ := List.nodup_cons.mp hn
    refine (Move.closeSession (live p (by simp)) notRestart notNone).reaches.trans (ih hn fun q hq => ?_)
    have hqp : q ≠ p := fun e => hp (e ▸ hq)
    rw [(closeSession_closes s notRestart p).1.2 q hqp]
    exact live q (by simp [hq])

theorem closeAll_moves {reason : CloseReason} (notRestart : reason ≠ .restart) (notNone : reason ≠ .none) :
    Reaches s (s.closeAll reason) := by
  obtain ⟨ps, hn, hm, he⟩ := closeAll_eq s reason
  rw [he]
  have hq : Move s { s with draws := s.draws + 1 } := .draw
  exact hq.reaches.trans (closes_moves notRestart notNone ps hn fun p hp => (hm p).mp hp)

/-- After the closes of all entries, LEFT or MUTED, every entry is ABSENT (R7, R14). -/
theorem closeAll_absent {reason : CloseReason} (hr : reason = .left ∨ reason = .muted) (p : Station) :
    ((s.closeAll reason).entry p).state = .absent := by
  rw [(closeAll_allClose s hr).1 p]
  split
  · assumption
  · rfl

/-- The closes of all entries leave the line and the station control as they are. -/
theorem closeAll_line (reason : CloseReason) :
    (s.closeAll reason).line = s.line ∧ (s.closeAll reason).control = s.control := by
  have hfold : ∀ (ps : List Station) (u : State),
      (ps.foldl (fun t p => t.closeSession reason p) u).line = u.line ∧
        (ps.foldl (fun t p => t.closeSession reason p) u).control = u.control := by
    intro ps
    induction ps with
    | nil => exact fun u => ⟨rfl, rfl⟩
    | cons p ps ih => exact fun u => ih (u.closeSession reason p)
  exact hfold _ { s with draws := s.draws + 1 }

/-- `s` in station state `x` with the consecutive-abort count at `n`: what a close neither reads nor writes. -/
def State.overlay (s : State) (x : StationState) (n : Nat) : State :=
  { s with control := { s.control with station := x }, line := { s.line with aborts := n } }

theorem closeAll_overlay (x : StationState) (n : Nat) (reason : CloseReason) :
    (s.overlay x n).closeAll reason = (s.closeAll reason).overlay x n := by
  have hfold : ∀ (ps : List Station) (u : State),
      ps.foldl (fun t p => t.closeSession reason p) (u.overlay x n) =
        (ps.foldl (fun t p => t.closeSession reason p) u).overlay x n := by
    intro ps
    induction ps with
    | nil => exact fun u => rfl
    | cons p ps ih => exact fun u => ih (u.closeSession reason p)
  exact hfold _ { s with draws := s.draws + 1 }

/-- A LINE_FAULT or DUPLICATE_STATION report in ACTIVE or LEAVING, the consecutive-abort count at `n` (R158). -/
theorem overlay_reportFault_moves {x : StationState} {n : Nat} (f : FaultName) (station : s.control.station = x)
    (hx : x = .active ∨ x = .leaving) (le : n ≤ 8 ∨ n = s.line.aborts) :
    Reaches s ((s.overlay x n).reportFault f) := by
  obtain ⟨hline, hcontrol⟩ := closeAll_line (s := s.setFault f) .muted
  have he : (s.overlay x n).reportFault f =
      { ((s.setFault f).closeAll .muted).setStation .muted with
        arb := ((s.setFault f).closeAll .muted).arb.mute
        line := { ((s.setFault f).closeAll .muted).line with aborts := n } }.goSilent := by
    have hc := closeAll_overlay (s := s.setFault f) .muted n .muted
    have hrep : (s.overlay x n).reportFault f =
        { ((s.setFault f).overlay .muted n).closeAll .muted with
          arb := (((s.setFault f).overlay .muted n).closeAll .muted).arb.mute }.goSilent := by
      obtain rfl | rfl := hx <;> rfl
    rw [hrep, hc]
    rfl
  rw [he]
  exact ((setFault_moves f).trans (closeAll_moves (by simp) (by simp))).trans
    (Move.mute (closeAll_absent (.inr rfl)) (by rw [hline]; exact le) (by rw [hcontrol]; exact station ▸ hx)).reaches

/-- A report in any state: the flag alone while MUTED, nothing where the line is SILENT (R158). -/
theorem reportFault_moves (f : FaultName) : Reaches s (s.reportFault f) := by
  have hs : s = s.overlay s.control.station s.line.aborts := rfl
  cases hx : s.control.station with
  | active =>
    rw [hx] at hs
    have hreach := overlay_reportFault_moves f hx (.inl rfl) (.inr rfl)
    rwa [← hs] at hreach
  | leaving =>
    rw [hx] at hs
    have hreach := overlay_reportFault_moves f hx (.inr rfl) (.inr rfl)
    rwa [← hs] at hreach
  | muted => simp only [State.reportFault, hx]; exact setFault_moves f
  | unconfigured => simp only [State.reportFault, hx]; exact .refl
  | configured => simp only [State.reportFault, hx]; exact .refl

end Sessions

/-! ## Frames of other stations -/

section Receptions
variable {s : State} {p : Station}

/-- A listening line takes another listening state; in the gap its marker stays behind (R124, R127). -/
theorem setLine_moves {x : LineState} (before : s.line.state.isListening = true) (after : x.isListening = true)
    (hm : x = .receiving .gap ∨ s.line.state ≠ .receiving .gap) : Reaches s (s.setLine x) :=
  (Move.line (s := s) (l := { s.line with state := x }) before after rfl rfl (.inl (Nat.le_refl _))
    fun h => ⟨h, hm⟩).reaches

/-- A listening line takes another listening state, with no marker behind it. -/
theorem setLine_unmarked_moves {x : LineState} (before : s.line.state.isListening = true)
    (after : x.isListening = true) : Reaches s ((s.setMarker false).setLine x) :=
  (Move.line (s := s) (l := { s.line with state := x, marker := false }) before after rfl rfl (.inl (Nat.le_refl _))
    fun h => nomatch h).reaches

/-- The start bit of another station's frame (R125, R126). -/
theorem reading_moves {r : State} (h : s.reading = some r) : Reaches s r := by
  unfold State.reading at h
  split at h <;> cases h
  next hl =>
    exact idleEnded_moves.trans (setLine_moves (by simp [hl, LineState.isListening]) rfl (.inr (by simp [hl])))
  next hl => exact (Move.lose hl).reaches
  next hl => exact setLine_unmarked_moves (by simp [hl, LineState.isListening]) rfl
  next => exact .refl

theorem frameDiscarded_moves : Reaches s s.frameDiscarded := by
  unfold State.frameDiscarded
  split
  next => exact .refl
  next r hr =>
    have hl : r.line.state = .receiving .frame := (reading_spec hr).1
    refine (reading_moves hr).trans (Move.line (s := r)
      (l := { r.line with state := .receiving .passing, errors := min Config.maxLineErrors (r.line.errors + 1) })
      (by simp [hl, LineState.isListening]) rfl rfl rfl (.inr ?_) fun h => ⟨h, .inr (by simp [hl])⟩).reaches
    exact Nat.min_le_left 255 _

/-- The heard update starts the silence timer of an OPEN entry (R8). -/
theorem heard_moves : Reaches s (s.heard p) := by
  simp only [State.heard]
  split
  next ho =>
    refine (Move.entry (s := s) (f := { s.entry p with silenceTimer := .start s.record.silenceMs }) ⟨rfl, rfl, .inl rfl, .inl rfl, .inl rfl, .inr (by simp [ho]), .inl rfl, fun h => ?_⟩).reaches
    simp [h, PeerEntry.reset] at ho
  next => exact .refl

/-- The way of a good frame to its handler, in ACTIVE and in LEAVING (R7, R8, R134). -/
theorem frameReceived_moves {active leaving : State → State}
    (ha : ∀ t : State, t.control.station = .active → t.own ≠ some p → t.line.state = .receiving .gap →
      Reaches t (active t))
    (hl : ∀ t : State, Reaches t (leaving t)) : Reaches s (s.frameReceived p active leaving) := by
  unfold State.frameReceived
  split
  next => exact .refl
  next r hr =>
    have hr' : r.line.state = .receiving .frame := (reading_spec hr).1
    have hgap : Reaches s (r.setLine (.receiving .gap)) :=
      (reading_moves hr).trans (setLine_moves (by simp [hr', LineState.isListening]) rfl (.inl rfl))
    simp only
    split
    · exact hgap.trans (reportFault_moves _)
    · rename_i hown
      split
      next hst =>
        exact hgap.trans (heard_moves.trans (ha _ (by rw [heard_control]; exact hst)
          (by rw [heard_own]; exact hown) (by rw [heard_line]; rfl)))
      next => exact hgap.trans (hl _)
      next => exact hgap

/-! ## The handlers, while ACTIVE, of a peer's frame -/

variable (active : s.control.station = .active) (peer : s.own ≠ some p) (gap : s.line.state = .receiving .gap)
include active peer gap

theorem handleAnnounce_moves : Reaches s (s.handleAnnounce p) := by
  by_cases ho : (s.entry p).state = .opened
  · rw [handleAnnounce_opened ho]
    exact (Move.restart ho gap).reaches
  · rw [handleAnnounce_other ho]
    exact (Move.freshJoining ho (.inl ⟨active, peer⟩)).reaches

omit active peer gap in
/-- A JOINING entry takes the peer tag a JOIN teaches (R17). -/
theorem learnPeerTag_moves (joining : (s.entry p).state = .joining) (tag : Tag) :
    Reaches s (s.learnPeerTag p tag) := by
  refine (Move.entry (s := s) (f := { s.entry p with peerTag := tag }) ⟨rfl, rfl, .inr joining, .inl rfl, .inl rfl, .inl rfl, .inl rfl, fun h => ?_⟩).reaches
  simp [h, PeerEntry.reset] at joining

theorem handleJoin_moves (a b : Tag) : Reaches s (s.handleJoin p a b) := by
  by_cases ha : a = 0
  · rw [handleJoin_ignored (.inr ha)]
  cases hst : (s.entry p).state with
  | absent =>
    rw [handleJoin_absent hst ha]
    exact (Move.freshJoining (by simp [hst]) (.inl ⟨active, peer⟩)).reaches
  | lost => rw [handleJoin_ignored (.inl hst)]
  | joining =>
    have hlearn := learnPeerTag_moves hst a
    have he : (s.learnPeerTag p a).entry p = { s.entry p with peerTag := a } :=
      entry_put (s := s) (learnPeerTag_session s p a)
    cases hb : (s.entry p).returnedBy b with
    | true =>
      have hown : b = (s.entry p).ownTag ∧ (s.entry p).ownTag ≠ 0 := by simpa [PeerEntry.returnedBy] using hb
      rw [handleJoin_returned hst ha hb]
      exact hlearn.trans (Move.openSession (by rw [he]; exact hst) (by rw [he]; exact hown.2)
        (by rw [he]; exact ha)).reaches
    | false =>
      rw [handleJoin_answered hst ha hb]
      exact hlearn.trans (claimJoin_moves (by rw [he]; exact hst))
  | opened =>
    by_cases hb : a = (s.entry p).peerTag
    · rw [handleJoin_known hst ha hb]
      exact claimTally_moves hst
    · rw [handleJoin_new hst ha hb]
      exact (Move.restart hst gap).reaches

omit active peer gap in
theorem handleSever_moves (a b : Tag) : Reaches s (s.handleSever p a b) := by
  simp only [State.handleSever]
  split
  next h =>
    refine (Move.closeSession ?_ (by simp) (by simp)).reaches
    obtain h | h := h.1 <;> simp [h]
  next => exact .refl

omit active peer gap in
/-- A close requested under an entry's own tags (R14). -/
theorem requestClose_moves {reason : CloseReason} (notRestart : reason ≠ .restart) (notNone : reason ≠ .none)
    (a b : Tag) : Reaches s (s.requestClose reason p a b) := by
  simp only [State.requestClose]
  split
  next h => exact (Move.closeSession (by simp [h.1]) notRestart notNone).reaches
  next => exact .refl

omit active peer in
theorem processTally_moves (opened : (s.entry p).state = .opened) (pairs : PerClass TallyPair) :
    Reaches s (s.processTally p pairs) := by
  unfold State.processTally
  split
  next valid => exact (Move.tx (.tally opened valid gap)).reaches
  next => exact requestClose_moves (by simp) (by simp) _ _

omit active peer in
theorem handleTally_moves (a b : Tag) (pairs : PerClass TallyPair) : Reaches s (s.handleTally p a b pairs) := by
  cases hm : (s.entry p).matchesTags a b with
  | false => rw [handleTally_stale pairs (.inl hm)]; exact staleSever_moves p a b
  | true =>
    cases hst : (s.entry p).state with
    | absent => rw [handleTally_stale pairs (.inr (.inl hst))]; exact staleSever_moves p a b
    | lost => rw [handleTally_stale pairs (.inr (.inr hst))]; exact staleSever_moves p a b
    | opened => rw [handleTally_opened pairs hm hst]; exact processTally_moves gap hst pairs
    | joining =>
      obtain ⟨hown, hpeer, -⟩ := (matchesTags_iff _ _ _).mp hm
      rw [handleTally_joining pairs hm hst]
      have opened : ((s.openSession p).entry p).state = .opened := by
        rw [entry_put (s := s) (openSession_session s p)]
        rfl
      exact (Move.openSession hst hown hpeer).reaches.trans
        (processTally_moves (s := s.openSession p) gap opened pairs)

omit active peer gap in
theorem receiveMessage_moves (opened : (s.entry p).state = .opened) (c : Cls) (seq : Count) (payload : List Byte) :
    Reaches s (s.receiveMessage p c seq payload) := by
  simp only [State.receiveMessage]
  split
  · split
    next hr => exact (Move.accept opened hr).reaches.trans (claimTally_moves opened)
    next => exact (setFault_moves _).trans (claimTally_moves opened)
  · exact claimTally_moves opened

omit active peer gap in
theorem handleMessage_moves (a b : Tag) (c : Cls) (seq : Count) (payload : List Byte) :
    Reaches s (s.handleMessage p a b c seq payload) := by
  cases hm : (s.entry p).matchesTags a b with
  | false => rw [handleMessage_stale c seq payload (.inl hm)]; exact staleSever_moves p a b
  | true =>
    cases hst : (s.entry p).state with
    | absent => rw [handleMessage_stale c seq payload (.inr (.inl hst))]; exact staleSever_moves p a b
    | lost => rw [handleMessage_stale c seq payload (.inr (.inr hst))]; exact staleSever_moves p a b
    | opened => rw [handleMessage_opened c seq payload hm hst]; exact receiveMessage_moves hst c seq payload
    | joining => rw [handleMessage_joining c seq payload hm hst]

end Receptions

/-! ## Frames of this station and the idle line -/

section OwnFrames
variable {s : State}

theorem selectAndBuild_moves : Reaches s s.selectAndBuild := by
  unfold State.selectAndBuild
  split
  next may =>
    split
    next ch hch => exact (Move.build may hch).reaches
    next => exact .refl
  next => exact .refl

/-- The marker driven in the gap, and the consecutive-abort count raised by one; at eight the station is MUTED (R129). -/
theorem raiseAborts_moves (gap : s.line.state = .receiving .gap) : Reaches s (s.setMarker true).raiseAborts := by
  have hmark : Reaches s (s.setMarker true) := (Move.marked (n := s.line.aborts) gap (.inr (.inl rfl))).reaches
  simp only [State.raiseAborts]
  by_cases h8 : min Config.lineFaultAt (s.line.aborts + 1) = Config.lineFaultAt
  · have hs : { s.setMarker true with line := { s.line with marker := true, aborts := Config.lineFaultAt } } =
        (s.setMarker true).overlay s.control.station Config.lineFaultAt := rfl
    rw [setMarker_line, if_pos h8, h8, hs]
    by_cases hx : s.control.station = .active ∨ s.control.station = .leaving
    · exact hmark.trans (overlay_reportFault_moves _ rfl hx (.inl (Nat.le_refl 8)))
    · refine .trans (Move.marked (n := 8) gap (.inr (.inr (not_or.mp hx)))).reaches (reportFault_moves _)
  · rw [setMarker_line, if_neg h8]
    exact (Move.marked gap (.inl (by simp only [Config.lineFaultAt] at h8 ⊢; omega))).reaches

theorem frameLostEffect_moves (cause : LossCause) : Reaches s (frameLostEffect cause s) := by
  unfold frameLostEffect
  split
  next hc =>
    cases cause with
    | driveFault => exact (Move.lose (phase := .gap) hc).reaches.trans (raiseAborts_moves rfl)
    | earlierStart => exact (Move.lose hc).reaches
    | arbitration => exact (Move.lose hc).reaches
  next => exact .refl

theorem frameAbortedEffect_moves : Reaches s (frameAbortedEffect s) := by
  unfold frameAbortedEffect
  split
  next ht =>
    exact (Move.aborted ht).reaches.trans
      (raiseAborts_moves (s := s.abortedNotice.emptyBuffer.setLine (.receiving .gap)) rfl)
  next => exact .refl

/-- The win of a TALLY not withdrawn starts the refresh timer of an OPEN peer, and that of a MESSAGE goes to the Transmit
Unit (R27, R117). -/
theorem frameWonEffect_moves : Reaches s (frameWonEffect s) := by
  unfold frameWonEffect
  split
  next hc =>
    refine idleEnded_moves.trans ?_
    have hc' : s.idleEnded.line.state = .contending := hc
    generalize s.idleEnded = r at hc'
    have other (h : ∀ p, r.arb.inHand.map (·.kind) ≠ some (.message p)) : Move r (r.setLine .transmitting) :=
      .won (u := r.tx) hc' (.inr ⟨rfl, h⟩)
    simp only [State.passWin]
    split
    next p w hh => exact (Move.won hc' (.inl ⟨_, rfl⟩)).reaches
    next p hh =>
      split
      next ho =>
        have ho' : (r.entry p).state = .opened := by simpa [State.isOpen] using ho
        have he : Move r (r.setEntry p { r.entry p with refreshTimer := .start r.record.refreshInterval }) :=
          .entry ⟨rfl, rfl, .inl rfl, .inl rfl, .inl rfl, .inl rfl, .inr (by simp [ho']),
            fun h => by simp [h, PeerEntry.reset] at ho'⟩
        generalize { r.entry p with refreshTimer := .start r.record.refreshInterval } = f at he ⊢
        exact he.reaches.trans (Move.won (s := r.setEntry p f) (u := r.tx) hc' (.inr ⟨rfl, by simp [hh]⟩)).reaches
      next => exact (other (by simp [hh])).reaches
    next hm _ =>
      refine (other fun p hp => ?_).reaches
      obtain ⟨⟨k, w⟩, hh, hk⟩ := Option.map_eq_some_iff.mp hp
      exact hm p w (by rw [hh]; exact congrArg some (congrArg (InHand.mk · w) hk))
  next => exact .refl

theorem idleBegunEffect_moves : Reaches s (idleBegunEffect s) := by
  unfold idleBegunEffect
  split
  case h_4 => exact .refl
  all_goals
    rename_i hl
    exact (setLine_unmarked_moves (by simp [hl, LineState.isListening]) rfl).trans selectAndBuild_moves

theorem windowOutEffect_moves : Reaches s (windowOutEffect s) := by
  unfold windowOutEffect
  split
  · exact idleEnded_moves.trans selectAndBuild_moves
  · exact .refl

end OwnFrames

/-! ## Host commands -/

section HostCommands
variable {s : State}

theorem configureEffect_moves (image : ConfigImage) : Reaches s (configureEffect image s) := by
  unfold configureEffect
  split
  next => exact decided_moves _
  next hst =>
    split
    next => exact decided_moves _
    next r valid =>
      split
      next => exact decided_moves _
      next hocc =>
        refine (Move.config valid ?_).reaches.trans (decided_moves _)
        by_cases hu : s.control.station = .unconfigured
        · exact .inl hu
        · have hc : s.control.station = .configured := by simpa [hu] using hst
          exact .inr ⟨hc, by simpa [hc] using hocc⟩

theorem startEffect_moves : Reaches s (startEffect s) := by
  unfold startEffect
  split
  next hc => exact (Move.start hc).reaches.trans (decided_moves _)
  next => exact decided_moves _

theorem reportDrained_moves : Reaches s s.reportDrained := by
  unfold State.reportDrained
  split
  next h => exact (Move.drained h.1 h.2).reaches
  next => exact .refl

/-- A LEAVE closes every entry while the station is still ACTIVE as it does once it is LEAVING. -/
theorem leaveEffect_moves : Reaches s (leaveEffect s) := by
  unfold leaveEffect
  split
  next ha =>
    have he : (s.setStation .leaving).closeAll .left = (s.closeAll .left).setStation .leaving := by
      have h := closeAll_overlay (s := s) .leaving s.line.aborts .left
      rw [← (closeAll_line (s := s) .left).1] at h
      exact (congrArg (fun t : State => t.closeAll .left) (by rw [(closeAll_line .left).1]; rfl)).trans h
    have hc : (s.closeAll .left).control.station = .active := by
      have := congrArg (·.control.station) (closeAll_overlay (s := s) .active s.line.aborts .left)
      have hs : s.overlay .active s.line.aborts = s := by rw [← ha]; rfl
      rw [hs] at this
      exact this
    simp only [he]
    refine (closeAll_moves (by simp) (by simp)).trans (.trans (Move.leave (closeAll_absent (.inl rfl)) hc).reaches ?_)
    exact reportDrained_moves.trans (decided_moves _)
  next => exact decided_moves _
  next => exact decided_moves _

/-- The staged part of a payload as long as the SUBMIT's length (R70, R71). -/
theorem staged_length {payload : List Byte} {length : BitVec 16}
    (hl : ¬(length.toNat = 0 ∨ Config.maxPayload < length.toNat)) (hc : ¬payload.length < length.toNat) :
    ((payload.take Config.maxPayload).take length.toNat).length = length.toNat := by
  simp only [Config.maxPayload, List.length_take] at hl ⊢
  omega

theorem submitEffect_moves (dest cls : Byte) (hostTag length : BitVec 16) (payload : List Byte) :
    Reaches s (submitEffect dest cls hostTag length payload s) := by
  simp only [submitEffect]
  refine (fillStaging_moves payload).trans ?_
  split
  next =>
    unfold submitChecked
    split
    next => exact decided_moves _
    next p _ =>
      split
      next => exact decided_moves _
      next =>
        split
        next => exact decided_moves _
        next c _ =>
          split
          next => exact decided_moves _
          next hl =>
            split
            next => exact decided_moves _
            next hc =>
              split
              next => exact decided_moves _
              next =>
                split
                next => exact decided_moves _
                next i hi =>
                  have hlen := staged_length hl hc
                  have hfree : look s.tx.pool i = .free := by
                    have := findIx_some hi
                    revert this
                    simp only [fillStaging_tx]
                    cases look s.tx.pool i <;> simp [TxSlot.isFree]
                  refine (Move.tx (s := s.fillStaging payload) (.enqueue hfree ?_ ?_)).reaches.trans (decided_moves _)
                  · rw [fillStaging_port, hlen]; omega
                  · rw [fillStaging_port, hlen]; simp only [Config.maxPayload] at hl; omega
  next => exact decided_moves _

theorem cancelEffect_moves (hostTag : BitVec 16) (dest : Byte) : Reaches s (cancelEffect hostTag dest s) := by
  unfold cancelEffect
  split
  next => exact decided_moves _
  next p _ =>
    split
    next i r ho =>
      obtain ⟨⟨held, -, hd, hq⟩, -⟩ := oldestQueued_some ho
      exact (Move.tx (.withdraw held hd hq)).reaches.trans (decided_moves _)
    next => split <;> exact decided_moves _

theorem completionsEffect_moves (count : Byte) : Reaches s (completionsEffect count s) := by
  simp only [completionsEffect]
  split
  next => exact decided_moves _
  next =>
    split
    next => exact taken_moves (fits_decided _) _
    next =>
      refine taken_moves ⟨by simp, ?_⟩ _
      intro n hn
      cases hn
      simp

/-- The head a TAKE or PEEK shows stands first in its queue (R57). -/
theorem shown_queue_head {rx : ReceiveUnit} {choice : ClassChoice} {c : Cls} {i : RxIx} {m : MsgRecord} {n : Nat}
    (h : rx.shown choice = some (c, i, m, n)) : (look rx.queues c).head? = some i := by
  obtain ⟨d, -, hd⟩ := Option.bind_eq_some_iff.mp h
  cases hq : look rx.queues d with
  | nil => simp [hq] at hd
  | cons j rest =>
    simp only [hq, Option.map_eq_some_iff, Prod.mk.injEq] at hd
    obtain ⟨_, _, rfl, rfl, -⟩ := hd
    rw [hq]
    rfl

theorem takeEffect_moves (classByte : Byte) : Reaches s (takeEffect classByte s) := by
  unfold takeEffect
  split
  next => exact decided_moves _
  next =>
    split
    next c i m n hs =>
      refine taken_moves ⟨fun d j h => ?_, by simp [TxnCommand.recordsLeft]⟩ _
      cases h
      exact shown_queue_head hs
    next => exact taken_moves (fits_decided _) _

theorem peekEffect_moves (classByte : Byte) : Reaches s (peekEffect classByte s) := by
  unfold peekEffect
  split
  next => exact decided_moves _
  next => split <;> exact taken_moves (fits_decided _) _

theorem peersEffect_moves (peerByte : Byte) : Reaches s (peersEffect peerByte s) := by
  unfold peersEffect
  split
  next => exact taken_moves (fits_of_shows_nothing (by simp) rfl) _
  next => exact decided_moves _

theorem takeCompleteEffect_moves : Reaches s (takeCompleteEffect s) := by
  unfold takeCompleteEffect
  split
  next h => exact (Move.release h).reaches
  next => exact .refl

theorem completionRecordReadEffect_moves : Reaches s (completionRecordReadEffect s) := by
  unfold completionRecordReadEffect
  split
  next h => exact (Move.pop h).reaches
  next => exact .refl

theorem statusReadClearEffect_moves : Reaches s (statusReadClearEffect s) := by
  unfold statusReadClearEffect
  split
  next shown errors since h =>
    have hc : Move s { s with control := { s.control with faults := s.control.faults.readClear shown since } } :=
      .control rfl rfl rfl
    exact (hc.reaches.trans (Move.errors (Nat.sub_le _ errors)).reaches).trans
      (setCommand_moves (fits_of_shows_nothing (by simp) rfl))
  next => exact .refl

/-- A changed flag cleared (R147). -/
theorem clearChanged_moves (p : Station) : Reaches s (s.setEntry p { s.entry p with changed := false }) :=
  (Move.entry (f := { s.entry p with changed := false })
    ⟨rfl, rfl, .inl rfl, .inl rfl, .inl rfl, .inl rfl, .inl rfl, fun h => by rw [h]; rfl⟩).reaches

theorem peersReadClearEffect_moves : Reaches s (peersReadClearEffect s) := by
  unfold peersReadClearEffect
  split
  next p since h =>
    have hcmd : ∀ t : State, Reaches t (t.setCommand (.peers p since true)) :=
      fun t => setCommand_moves (fits_of_shows_nothing (by simp) rfl)
    split
    · exact hcmd s
    · exact (clearChanged_moves p).trans (hcmd _)
  next => exact .refl

theorem maskEffect_moves (value : Byte) : Reaches s (maskEffect value s) := by
  have hc : Move s { s with control := { s.control with mask := value } } := .control rfl rfl rfl
  exact hc.reaches.trans (decided_moves _)

/-- RST's edges reset the station, but for a rise of RST that is high already (R161). -/
theorem resetPinEffect_cases (move : PinMove) :
    resetPinEffect move s = s ∨ ∃ rst cs, resetPinEffect move s = s.afterReset rst cs := by
  cases move with
  | falls => exact .inr ⟨_, _, rfl⟩
  | pulse => exact .inr ⟨_, _, rfl⟩
  | rises =>
    simp only [resetPinEffect]
    split
    · exact .inr ⟨_, _, rfl⟩
    · exact .inl rfl

end HostCommands

/-! ## Timers -/

section Timers
variable {s : State} (p : Station)

/-- An entry with a running timer does not hold the reset values. -/
theorem not_reset_of_running {e : PeerEntry} (h : e.joinTimer.isRunning = true ∨ e.holdDownTimer.isRunning = true ∨
    e.silenceTimer.isRunning = true ∨ e.refreshTimer.isRunning = true) : e ≠ .reset := by
  rintro rfl
  simp [PeerEntry.reset, Timer.isRunning] at h

theorem joinTimerExpiryEffect_moves : Reaches s (joinTimerExpiryEffect p s) := by
  simp only [joinTimerExpiryEffect]
  split
  next hr =>
    have hne := not_reset_of_running (.inl hr)
    split
    next hj =>
      split
      next =>
        have he : Move s (s.setEntry p { s.entry p with
            joinAttempts := (s.entry p).joinAttempts + 1, joinTimer := .start s.record.joinInterval }) :=
          .entry ⟨rfl, rfl, .inl rfl, .inl (by simp [hr]), .inl rfl, .inl rfl, .inl rfl, fun h => absurd h hne⟩
        exact he.reaches.trans (claimJoin_moves (by simpa using hj))
      next => exact (Move.closeSession (by simp [hj]) (by simp) (by simp)).reaches
    next hj =>
      exact (Move.entry (f := { s.entry p with joinTimer := .stopped }) ⟨rfl, rfl, .inl rfl, .inr (by simp [hj, Timer.isRunning]), .inl rfl, .inl rfl, .inl rfl,
        fun h => absurd h hne⟩).reaches
  next => exact .refl

theorem holdDownExpiryEffect_moves : Reaches s (holdDownExpiryEffect p s) := by
  simp only [holdDownExpiryEffect]
  split
  next hr =>
    have hne := not_reset_of_running (.inr (.inl hr))
    split
    next hl => exact (Move.freshJoining (by simp [hl]) (.inr hl)).reaches
    next hl =>
      exact (Move.entry (f := { s.entry p with holdDownTimer := .stopped }) ⟨rfl, rfl, .inl rfl, .inl rfl, .inr (by simp [hl, Timer.isRunning]), .inl rfl, .inl rfl,
        fun h => absurd h hne⟩).reaches
  next => exact .refl

theorem silenceExpiryEffect_moves : Reaches s (silenceExpiryEffect p s) := by
  simp only [silenceExpiryEffect]
  split
  next hr =>
    have hne := not_reset_of_running (.inr (.inr (.inl hr)))
    split
    next ho => exact (Move.closeSession (by simp [ho]) (by simp) (by simp)).reaches
    next ho =>
      exact (Move.entry (f := { s.entry p with silenceTimer := .stopped }) ⟨rfl, rfl, .inl rfl, .inl rfl, .inl rfl, .inr (by simp [ho, Timer.isRunning]), .inl rfl,
        fun h => absurd h hne⟩).reaches
  next => exact .refl

theorem refreshExpiryEffect_moves : Reaches s (refreshExpiryEffect p s) := by
  simp only [refreshExpiryEffect]
  split
  next hr =>
    have hne := not_reset_of_running (.inr (.inr (.inr hr)))
    split
    next ho =>
      have he : Move s (s.setEntry p { s.entry p with refreshTimer := .start s.record.refreshInterval }) :=
        .entry ⟨rfl, rfl, .inl rfl, .inl rfl, .inl rfl, .inl rfl, .inl (by simp [hr]), fun h => absurd h hne⟩
      exact he.reaches.trans (claimTally_moves (by simpa using ho))
    next ho =>
      exact (Move.entry (f := { s.entry p with refreshTimer := .stopped }) ⟨rfl, rfl, .inl rfl, .inl rfl, .inl rfl, .inl rfl, .inr (by simp [ho, Timer.isRunning]),
        fun h => absurd h hne⟩).reaches
  next => exact .refl

theorem ackTimerExpiryEffect_moves : Reaches s (ackTimerExpiryEffect p s) := by
  simp only [ackTimerExpiryEffect]
  split
  next =>
    split
    next => exact (Move.tx .retry).reaches
    next => exact (Move.tx .stopAck).reaches.trans (requestClose_moves (by simp) (by simp) _ _)
  next => exact .refl

/-- A tick counts every timer down; beside it only the choices drawn and the commands waiting change (R163). -/
theorem tick_moves : ∃ u, Reaches s u ∧ s.tick = { u with pending := s.tick.pending } := by
  simp only [State.tick]
  split
  next => exact ⟨_, Move.countDown.reaches, rfl⟩
  next => exact ⟨_, Move.countDown.reaches.trans (Move.draw (n := s.draws + 1)).reaches, rfl⟩

end Timers

/-! ## Every step -/

/-- A command is a run of moves or a reset, and ATTN driven at its end. -/
theorem exec_moves {c : Instr} {s t : State} (h : exec c s = .next t) :
    ∃ u : State, (Reaches s u ∨ ∃ rst cs, u = s.afterReset rst cs) ∧ t = u.driveAttn := by
  have of_effect {u : State} (hu : exec c s = done u) (hr : Reaches s u ∨ ∃ rst cs, u = s.afterReset rst cs) :
      ∃ u, (Reaches s u ∨ ∃ rst cs, u = s.afterReset rst cs) ∧ t = u.driveAttn :=
    ⟨u, hr, by rw [hu, done_eq] at h; exact (Host.Outcome.next.inj h).symm⟩
  have of_done {u : State} (hu : exec c s = done u) (hr : Reaches s u) := of_effect hu (.inl hr)
  cases c with
  | configure image => exact of_done rfl (onCommand_moves (configureEffect_moves image))
  | start => exact of_done rfl (onCommand_moves startEffect_moves)
  | leave => exact of_done rfl (onCommand_moves leaveEffect_moves)
  | reset =>
    refine of_effect rfl ?_
    unfold State.onCommand
    split
    · exact .inr ⟨_, _, rfl⟩
    · exact .inl .refl
  | submit d k tag len payload => exact of_done rfl (onCommand_moves (submitEffect_moves d k tag len payload))
  | cancel tag d => exact of_done rfl (onCommand_moves (cancelEffect_moves tag d))
  | completions n => exact of_done rfl (onCommand_moves (completionsEffect_moves n))
  | completionRecordRead => exact of_done rfl completionRecordReadEffect_moves
  | take b => exact of_done rfl (onCommand_moves (takeEffect_moves b))
  | takeComplete => exact of_done rfl takeCompleteEffect_moves
  | peek b => exact of_done rfl (onCommand_moves (peekEffect_moves b))
  | status => exact of_done rfl (onCommand_moves (taken_moves (fits_of_shows_nothing (by simp) rfl) _))
  | statusReadClear => exact of_done rfl statusReadClearEffect_moves
  | peers b => exact of_done rfl (onCommand_moves (peersEffect_moves b))
  | peersReadClear => exact of_done rfl peersReadClearEffect_moves
  | mask value => exact of_done rfl (onCommand_moves (maskEffect_moves value))
  | unknownCommand code =>
    refine of_done rfl (onCommand_moves ?_)
    split
    · exact .refl
    · exact taken_moves (fits_of_shows_nothing (by simp) rfl) _
  | transactionBegin => exact of_done rfl beginTransaction_moves
  | transactionEnd => exact of_done rfl endTransaction_moves
  | resetPin move => exact of_effect rfl ((resetPinEffect_cases move).imp_left fun h => by rw [h])
  | powerOn pins => exact of_effect rfl (.inr ⟨_, _, rfl⟩)
  | frameBuild => exact of_done rfl selectAndBuild_moves
  | frameWon => exact of_done rfl frameWonEffect_moves
  | frameLost cause => exact of_done rfl (frameLostEffect_moves cause)
  | frameCompleted =>
    refine of_done rfl ?_
    by_cases ht : s.line.state = .transmitting
    · exact (Move.completed ht).reaches
    · rw [frameCompletedEffect, if_neg ht]
  | frameAborted => exact of_done rfl frameAbortedEffect_moves
  | idleBegun => exact of_done rfl idleBegunEffect_moves
  | windowOut => exact of_done rfl windowOutEffect_moves
  | frameDiscard _ => exact of_done rfl frameDiscarded_moves
  | announceReceived p _ =>
    exact of_done rfl (frameReceived_moves (fun _ ha hp hg => handleAnnounce_moves ha hp hg) fun _ => .refl)
  | joinReceived p a b =>
    exact of_done rfl (frameReceived_moves (fun _ ha hp hg => handleJoin_moves ha hp hg a b) fun _ => .refl)
  | severReceived p a b _ =>
    exact of_done rfl (frameReceived_moves (fun _ _ _ _ => handleSever_moves a b) fun _ => .refl)
  | tallyReceived p a b pairs =>
    exact of_done rfl (frameReceived_moves (fun _ _ _ hg => handleTally_moves hg a b pairs)
      fun _ => staleSever_moves p a b)
  | messageReceived p a b k seq payload =>
    refine of_done rfl ?_
    split
    · exact frameDiscarded_moves
    · exact frameReceived_moves (fun _ _ _ _ => handleMessage_moves a b k seq payload) fun _ => staleSever_moves p a b
  | joinTimerExpiry p => exact of_done rfl (joinTimerExpiryEffect_moves p)
  | holdDownExpiry p => exact of_done rfl (holdDownExpiryEffect_moves p)
  | silenceExpiry p => exact of_done rfl (silenceExpiryEffect_moves p)
  | refreshExpiry p => exact of_done rfl (refreshExpiryEffect_moves p)
  | ackTimerExpiry p => exact of_done rfl (ackTimerExpiryEffect_moves p)
  | drained => exact of_done rfl reportDrained_moves
  | frameAddressedToAnotherStation _ p =>
    exact of_done rfl (frameReceived_moves (fun _ _ _ _ => .refl) fun _ => .refl)
  | startBitReceived =>
    refine of_done rfl ?_
    cases hr : s.reading with
    | none => exact .refl
    | some r => exact reading_moves hr

/-- A step runs the command at the front of the queue on the rest, or on an empty queue ticks. -/
theorem step_cases {s t : State} (h : step s = .next t) :
    (∃ c rest, s.pending = c :: rest ∧ exec c { s with pending := rest } = .next t) ∨
      s.pending = [] ∧ t = s.tick := by
  unfold step at h
  split at h
  next c rest hp => exact .inl ⟨c, rest, hp, h⟩
  next hp => exact .inr ⟨hp, (Host.Outcome.next.inj h).symm⟩

/-- Every step is a run of moves, the commands waiting aside, or a reset with ATTN driven. -/
theorem step_moves {s t : State} (h : step s = .next t) :
    (∃ l u, Reaches { s with pending := l } u ∧ t = { u with pending := t.pending }) ∨
      ∃ (u : State) (rst cs : PinLevel), t = (u.afterReset rst cs).driveAttn := by
  obtain ⟨c, rest, -, hx⟩ | ⟨-, rfl⟩ := step_cases h
  · obtain ⟨u, hu | ⟨rst, cs, rfl⟩, rfl⟩ := exec_moves hx
    · exact .inl ⟨rest, _, hu.trans driveAttn_moves, rfl⟩
    · exact .inr ⟨_, rst, cs, rfl⟩
  · obtain ⟨u, hu, ht⟩ := tick_moves (s := s)
    exact .inl ⟨s.pending, u, hu, ht⟩

/-- A law that every move keeps, that the commands waiting do not bear on, and that holds after a reset, is kept by every
step. -/
theorem kept_by_step {P : State → Prop} (keeps : ∀ s t, P s → Move s t → P t)
    (queue : ∀ (s : State) (l : List Instr), P s → P { s with pending := l })
    (resets : ∀ (s : State) (rst cs : PinLevel), P (s.afterReset rst cs)) {s t : State} (hs : P s)
    (h : step s = .next t) : P t := by
  obtain ⟨l, u, hu, ht⟩ | ⟨u, rst, cs, rfl⟩ := step_moves h
  · rw [ht]
    exact queue u _ (kept_of_moves keeps hu (queue s l hs))
  · exact kept_of_moves keeps driveAttn_moves (resets u rst cs)

end Sys2Proof.Machine

/-! PROOFS. The laws of the sessions, move by move: an entry's tags and timers go by its state, outside ACTIVE every entry
is ABSENT, and a JOIN or TALLY claim lives only in its entry's state (R4, R6, R7, R116, R159, section 1.3). -/

namespace Sys2Proof.Machine

/-! ## What a selection found -/

/-- What a selection serves was offered: the ANNOUNCE flag, a claim of a set, or data that is sendable (R112, R114). -/
def State.Offers (s : State) : Choice → Prop
  | .announce => s.arb.announce = true
  | .sever p c => look s.arb.severs p = some c
  | .join p => look s.arb.joins p = true
  | .tally p => look s.arb.tallies p = true
  | .first p c i => s.sendable p c = some (.first p c i)
  | .resend p c i q => s.sendable p c = some (.resend p c i q)

/-- What a peer has sendable is a first transmission or a resend of its own (R114). -/
theorem offers_of_sendable {s : State} {p : Station} {c : Cls} {ch : Choice} (h : s.sendable p c = some ch) :
    s.Offers ch := by
  have h' := h
  unfold State.sendable at h'
  split at h'
  · split at h'
    · cases h'; exact h
    · obtain ⟨i, -, rfl⟩ := Option.map_eq_some_iff.mp h'
      exact h
  · cases h'

theorem selectData_offers {s : State} {ch : Choice} (h : s.selectData = some ch) : s.Offers ch := by
  obtain ⟨c, -, hc⟩ := List.exists_of_findSome?_eq_some h
  obtain ⟨p, -, hp⟩ := Option.bind_eq_some_iff.mp hc
  exact offers_of_sendable hp

theorem selectSever_offers {s : State} {ch : Choice} (h : s.selectSever = some ch) : s.Offers ch := by
  obtain ⟨p, -, hp⟩ := Option.bind_eq_some_iff.mp h
  obtain ⟨c, hc, rfl⟩ := Option.map_eq_some_iff.mp hp
  exact hc

theorem select_offers {s : State} {ch : Choice} (h : s.select = some ch) : s.Offers ch := by
  unfold State.select at h
  split at h
  · split at h
    next ha => cases h; exact ha
    next =>
      simp only [Option.orElse_eq_orElse, Option.orElse_eq_or, Option.or_eq_some_iff, Option.map_eq_some_iff] at h
      obtain h | ⟨-, ⟨p, hp, rfl⟩ | ⟨-, ⟨p, hp, rfl⟩ | ⟨-, h⟩⟩⟩ := h
      · exact selectSever_offers h
      · exact nextAfter_some hp
      · exact nextAfter_some hp
      · split at h
        · cases h
        · exact selectData_offers h
  · exact selectSever_offers h

/-! ## Claims -/

/-- A JOIN claim for `p` is pending, or in hand and not withdrawn (R116). -/
abbrev Arbiter.ClaimsJoin (a : Arbiter) (p : Station) : Prop :=
  look a.joins p = true ∨ a.inHand = some ⟨.join p, false⟩

/-- A TALLY claim for `p` is pending, or in hand and not withdrawn (R116). -/
abbrev Arbiter.ClaimsTally (a : Arbiter) (p : Station) : Prop :=
  look a.tallies p = true ∨ a.inHand = some ⟨.tally p, false⟩

/-- A hand that is live after some kinds were withdrawn was live before, and of no such kind (R118). -/
theorem live_of_withdrawn {o : Option InHand} {k : HandKind} {P : HandKind → Prop} [DecidablePred P]
    (h : (o.map fun h => if P h.kind then { h with withdrawn := true } else h) = some ⟨k, false⟩) :
    o = some ⟨k, false⟩ ∧ ¬P k := by
  obtain ⟨⟨k', w⟩, rfl, hk⟩ := Option.map_eq_some_iff.mp h
  by_cases hp : P k'
  · simp [hp] at hk
  · simp only [hp, if_false, InHand.mk.injEq] at hk
    obtain ⟨rfl, rfl⟩ := hk
    exact ⟨rfl, hp⟩

section GiveBack
variable {a : Arbiter} {active : Bool} {p : Station}

/-- A claim that stands after the frame in hand was given back stood before, or was in hand (R118). -/
theorem giveBack_claims : ((a.giveBack active).ClaimsJoin p → a.ClaimsJoin p) ∧
    ((a.giveBack active).ClaimsTally p → a.ClaimsTally p) := by
  cases hh : a.inHand with
  | none => rw [giveBack_none hh]; exact ⟨id, id⟩
  | some h =>
    obtain ⟨k, w⟩ := h
    have hr : a.giveBack active = _ := giveBack_restored hh active
    rw [hr]
    constructor
    · rintro (h | h)
      · cases k with
        | join q =>
          cases w with
          | true => exact .inl h
          | false =>
            obtain rfl | hq := eq_or_ne q p
            · exact .inr hh
            · exact .inl (by simpa [look_put_ne _ _ hq] using h)
        | announce | sever | tally | message => exact .inl h
      · cases h
    · rintro (h | h)
      · cases k with
        | tally q =>
          cases w with
          | true => exact .inl h
          | false =>
            obtain rfl | hq := eq_or_ne q p
            · exact .inr hh
            · exact .inl (by simpa [look_put_ne _ _ hq] using h)
        | announce | sever | join | message => exact .inl h
      · cases h

theorem giveBack_inHand : (a.giveBack active).inHand = none := by
  cases hh : a.inHand with
  | none => rw [giveBack_none hh, hh]
  | some h => exact congrArg Arbiter.inHand (giveBack_restored hh active)

end GiveBack

/-! ## The laws in one -/

/-- An entry's tags (R6) and timers (section 1.3) as its state has them. -/
structure PeerEntry.Lawful (e : PeerEntry) : Prop where
  opened : e.state = .opened → e.ownTag ≠ 0 ∧ e.peerTag ≠ 0
  joining : e.state = .joining → e.ownTag ≠ 0
  ended : e.state = .absent ∨ e.state = .lost → e.ownTag = 0 ∧ e.peerTag = 0
  join : e.joinTimer.isRunning = decide (e.state = .joining)
  holdDown : e.holdDownTimer.isRunning = decide (e.state = .lost)
  silence : e.silenceTimer.isRunning = decide (e.state = .opened)
  refresh : e.refreshTimer.isRunning = decide (e.state = .opened)

/-- The laws of the sessions, entry by entry. -/
structure SessionLaws (s : State) : Prop where
  counter : s.control.tagCounter ≠ 0
  entries : ∀ p, (s.entry p).Lawful
  quiet : QuietLaw s
  claims : ∀ p, (s.arb.ClaimsJoin p → (s.entry p).state = .joining) ∧
    (s.arb.ClaimsTally p → (s.entry p).state = .opened)

theorem sessionLaws_iff {s : State} : SessionLaws s ↔ TagLaw s ∧ TimerLaw s ∧ QuietLaw s ∧ ClaimLaw s := by
  constructor
  · rintro ⟨hc, he, hq, hcl⟩
    exact ⟨⟨hc, fun p => ⟨(he p).opened, (he p).joining, (he p).ended⟩⟩,
      fun p => ⟨(he p).join, (he p).holdDown, (he p).silence, (he p).refresh⟩, hq, hcl⟩
  · rintro ⟨⟨hc, htag⟩, htim, hq, hcl⟩
    refine ⟨hc, fun p => ?_, hq, hcl⟩
    obtain ⟨h1, h2, h3⟩ := htag p
    obtain ⟨h4, h5, h6, h7⟩ := htim p
    exact ⟨h1, h2, h3, h4, h5, h6, h7⟩

theorem lawful_reset : PeerEntry.reset.Lawful := by
  constructor <;> simp [PeerEntry.reset, Timer.isRunning]

section Entries
variable {e : PeerEntry}

theorem lawful_mayBecome {f : PeerEntry} (h : e.Lawful) (may : e.MayBecome f) : f.Lawful := by
  obtain ⟨hst, hown, hpeer, hj, hd, hs, hr, -⟩ := may
  refine ⟨fun ho => ?_, fun ho => ?_, fun ho => ?_, ?_, ?_, ?_, ?_⟩
  · rw [hst] at ho
    have hp : f.peerTag = e.peerTag := hpeer.resolve_right (by simp [ho])
    rw [hown, hp]
    exact h.opened ho
  · rw [hst] at ho
    rw [hown]
    exact h.joining ho
  · rw [hst] at ho
    have hp : f.peerTag = e.peerTag := hpeer.resolve_right (by obtain ho | ho := ho <;> simp [ho])
    rw [hown, hp]
    exact h.ended ho
  · rw [hst, ← h.join]; exact hj.elim id fun x => x.trans h.join.symm
  · rw [hst, ← h.holdDown]; exact hd.elim id fun x => x.trans h.holdDown.symm
  · rw [hst, ← h.silence]; exact hs.elim id fun x => x.trans h.silence.symm
  · rw [hst, ← h.refresh]; exact hr.elim id fun x => x.trans h.refresh.symm

theorem lawful_freshJoining {own peer : Tag} (ms : Nat) (hown : own ≠ 0) : (e.freshJoining own peer ms).Lawful := by
  refine ⟨?_, fun _ => hown, ?_, ?_, ?_, ?_, ?_⟩ <;> simp [PeerEntry.freshJoining, Timer.isRunning, Timer.start]

theorem lawful_openedWith (h : e.Lawful) (joining : e.state = .joining) (hpeer : e.peerTag ≠ 0) (a b : Nat) :
    (e.openedWith a b).Lawful := by
  have hd : e.holdDownTimer.isRunning = false := by rw [h.holdDown, joining]; rfl
  refine ⟨fun _ => ⟨h.joining joining, hpeer⟩, ?_, ?_, ?_, hd, ?_, ?_⟩ <;>
    simp [PeerEntry.openedWith, Timer.isRunning, Timer.start]

/-- A close leads to ABSENT or LOST, unless it is a RESTART (R11). -/
theorem closed_state {reason : CloseReason} (notRestart : reason ≠ .restart) (ms : Nat) :
    (e.closed reason ms).state = .absent ∨ (e.closed reason ms).state = .lost := by
  cases reason with
  | restart => exact absurd rfl notRestart
  | severed => by_cases h : e.state = .opened <;> simp [PeerEntry.closed, closeDestination, h]
  | _ => simp [PeerEntry.closed, closeDestination]

theorem lawful_closed {reason : CloseReason} (notRestart : reason ≠ .restart) (ms : Nat) :
    (e.closed reason ms).Lawful := by
  have hd : (e.closed reason ms).holdDownTimer.isRunning = decide ((e.closed reason ms).state = .lost) := by
    by_cases h : closeDestination reason e.state = .lost <;> simp [PeerEntry.closed, h, Timer.isRunning, Timer.start]
  obtain h | h := closed_state (e := e) notRestart ms <;> rw [h] at hd <;>
    exact ⟨by simp [h], by simp [h], fun _ => ⟨rfl, rfl⟩, by rw [h]; rfl, by rw [h]; exact hd, by rw [h]; rfl,
      by rw [h]; rfl⟩

theorem lawful_tick (h : e.Lawful) : e.tick.Lawful := by
  constructor <;> simp only [PeerEntry.tick, tick_isRunning]
  · exact h.opened
  · exact h.joining
  · exact h.ended
  · exact h.join
  · exact h.holdDown
  · exact h.silence
  · exact h.refresh

end Entries

/-- A drawn tag is not 0, and neither is the counter after a draw (R4). -/
theorem drawnTag_ne_zero {s : State} (h : s.control.tagCounter ≠ 0) : s.drawnTag ≠ 0 := by
  intro e
  apply h
  have hlow : (s.record.incarnation ++ s.control.tagCounter).setWidth 8 = s.control.tagCounter :=
    BitVec.setWidth_append_eq_right
  rw [← hlow, show s.record.incarnation ++ s.control.tagCounter = (0 : Tag) from e]
  rfl

theorem nextTagCounter_ne_zero (n : Byte) : nextTagCounter n ≠ 0 := by
  unfold nextTagCounter
  split
  · decide
  · intro e
    bv_omega

/-! ## One entry written, or none -/

section Change
variable {s t : State} (h : SessionLaws s)
include h

/-- Where control and peer table stand, the laws stand with the claims. -/
theorem SessionLaws.same (session : t.session = s.session) (station : t.control.station = s.control.station)
    (counter : t.control.tagCounter = s.control.tagCounter)
    (joins : ∀ p, t.arb.ClaimsJoin p → s.arb.ClaimsJoin p ∨ (s.entry p).state = .joining)
    (tallies : ∀ p, t.arb.ClaimsTally p → s.arb.ClaimsTally p ∨ (s.entry p).state = .opened) : SessionLaws t := by
  have he := entry_of_same session
  refine ⟨by rw [counter]; exact h.counter, fun p => by rw [he]; exact h.entries p, fun hn p => ?_, fun p => ?_⟩
  · rw [station] at hn
    rw [he]
    exact h.quiet hn p
  · rw [he]
    exact ⟨fun hc => (joins p hc).elim (h.claims p).1 id, fun hc => (tallies p hc).elim (h.claims p).2 id⟩

/-- Where no block of the laws is written they stand. -/
theorem SessionLaws.untouched (session : t.session = s.session) (control : t.control = s.control)
    (arb : t.arb = s.arb) : SessionLaws t :=
  h.same session (by rw [control]) (by rw [control]) (fun p hc => .inl (by rwa [arb] at hc))
    fun p hc => .inl (by rwa [arb] at hc)

/-- Where `p`'s entry becomes a lawful `e` the laws stand, if the claims for `p` are those of `e`'s state. -/
theorem SessionLaws.change {p : Station} {e : PeerEntry} (session : t.session = put s.session p e)
    (station : t.control.station = s.control.station) (counter : t.control.tagCounter ≠ 0) (lawful : e.Lawful)
    (quiet : s.control.station ≠ .active → e.state = .absent)
    (join : t.arb.ClaimsJoin p → e.state = .joining) (tally : t.arb.ClaimsTally p → e.state = .opened)
    (joins : ∀ q, q ≠ p → t.arb.ClaimsJoin q → s.arb.ClaimsJoin q)
    (tallies : ∀ q, q ≠ p → t.arb.ClaimsTally q → s.arb.ClaimsTally q) : SessionLaws t := by
  have he := entry_of_put session
  have hne {q : Station} (hq : q ≠ p) : t.entry q = s.entry q := by rw [he, if_neg (Ne.symm hq)]
  have hself : t.entry p = e := entry_put session
  refine ⟨counter, fun q => ?_, fun hn q => ?_, fun q => ?_⟩ <;> obtain rfl | hq := eq_or_ne q p
  · rw [hself]; exact lawful
  · rw [hne hq]; exact h.entries q
  · rw [station] at hn; rw [hself]; exact quiet hn
  · rw [station] at hn; rw [hne hq]; exact h.quiet hn q
  · rw [hself]; exact ⟨join, tally⟩
  · rw [hne hq]; exact ⟨fun hc => (h.claims q).1 (joins q hq hc), fun hc => (h.claims q).2 (tallies q hq hc)⟩

end Change

/-! ## The moves that write an entry -/

section Moves
variable {s : State} {p : Station} (h : SessionLaws s)
include h

/-- Outside ABSENT the station is ACTIVE (R7, R159). -/
theorem SessionLaws.active (live : (s.entry p).state ≠ .absent) : s.control.station = .active := by
  by_contra hn
  exact live (h.quiet hn p)

theorem SessionLaws.setEntry {f : PeerEntry} (may : (s.entry p).MayBecome f) : SessionLaws (s.setEntry p f) :=
  h.change rfl rfl h.counter (lawful_mayBecome (h.entries p) may) (fun hn => may.state.trans (h.quiet hn p))
    (fun hc => may.state.trans ((h.claims p).1 hc)) (fun hc => may.state.trans ((h.claims p).2 hc))
    (fun _ _ hc => hc) fun _ _ hc => hc

theorem SessionLaws.freshJoining {tag : Tag} (notOpen : (s.entry p).state ≠ .opened)
    (active : s.control.station = .active) : SessionLaws (s.freshJoining p tag) := by
  refine h.change (freshJoining_session s p tag) rfl (nextTagCounter_ne_zero _)
    (lawful_freshJoining _ (drawnTag_ne_zero h.counter)) (fun hn => absurd active hn) (fun _ => rfl)
    (fun hc => absurd ((h.claims p).2 hc) notOpen) (fun q hq hc => ?_) fun _ _ hc => hc
  exact hc.imp_left (by simp [Arbiter.claimJoin, look_put_ne _ _ (Ne.symm hq)])

theorem SessionLaws.openSession (joining : (s.entry p).state = .joining) (peerTag : (s.entry p).peerTag ≠ 0) :
    SessionLaws (s.openSession p) := by
  have hhand {k : HandKind} (hc : (s.openSession p).arb.inHand = some ⟨k, false⟩) :
      s.arb.inHand = some ⟨k, false⟩ ∧ ¬k = .join p := live_of_withdrawn (P := (· = .join p)) hc
  refine h.change (openSession_session s p) rfl h.counter
    (lawful_openedWith (h.entries p) joining peerTag _ _)
    (fun hn => absurd (h.active (p := p) (by simp [joining])) hn) (fun hc => ?_) (fun _ => rfl) (fun q hq hc => ?_)
    fun q hq hc => ?_
  · obtain hc | hc := hc
    · simp [Arbiter.withdrawJoin, Arbiter.withdrawHand, Arbiter.claimTally] at hc
    · exact absurd rfl (hhand hc).2
  · exact hc.imp (by simp [Arbiter.withdrawJoin, Arbiter.withdrawHand, Arbiter.claimTally, look_put_ne _ _ (Ne.symm hq)])
      fun hc => (hhand hc).1
  · exact hc.imp (by simp [Arbiter.withdrawJoin, Arbiter.withdrawHand, Arbiter.claimTally, look_put_ne _ _ (Ne.symm hq)])
      fun hc => (hhand hc).1

/-- What a close leaves of the claims: none for `p`, and no new one (R13). -/
theorem SessionLaws.closed {t : State} {reason : CloseReason} {e : PeerEntry}
    (arb : t.arb = s.arb.closePeer p (s.entry p) reason) (session : t.session = put s.session p e)
    (control : t.control = s.control) (lawful : e.Lawful) (active : s.control.station = .active) : SessionLaws t := by
  rw [closePeer_claims] at arb
  have hhand {k : HandKind} (hc : t.arb.inHand = some ⟨k, false⟩) :
      s.arb.inHand = some ⟨k, false⟩ ∧ ¬(k = .join p ∨ k = .tally p) := by
    rw [arb] at hc
    exact live_of_withdrawn (P := fun k => k = .join p ∨ k = .tally p) hc
  refine h.change session (by rw [control]) (by rw [control]; exact h.counter) lawful (fun hn => absurd active hn)
    (fun hc => ?_) (fun hc => ?_) (fun q hq hc => ?_) fun q hq hc => ?_
  · obtain hc | hc := hc
    · simp [arb] at hc
    · exact absurd (.inl rfl) (hhand hc).2
  · obtain hc | hc := hc
    · simp [arb] at hc
    · exact absurd (.inr rfl) (hhand hc).2
  · exact hc.imp (by simp [arb, look_put_ne _ _ (Ne.symm hq)]) fun hc => (hhand hc).1
  · exact hc.imp (by simp [arb, look_put_ne _ _ (Ne.symm hq)]) fun hc => (hhand hc).1

theorem SessionLaws.closeSession {reason : CloseReason} (live : (s.entry p).state ≠ .absent)
    (notRestart : reason ≠ .restart) : SessionLaws (s.closeSession reason p) :=
  h.closed (closeSession_arb s reason p) (closeSession_session s reason p) rfl (lawful_closed notRestart _)
    (h.active live)

/-- A restart is a close into the fresh JOINING that follows it (R11, R13); between the two the entry is left as a SEVER
would leave it, so that the laws hold on the way. -/
theorem SessionLaws.restartSession {tag : Tag} (opened : (s.entry p).state = .opened) :
    SessionLaws (s.restartSession p tag) := by
  have hactive := h.active (p := p) (by simp [opened])
  have hclosed : SessionLaws { s.closeSession .restart p with session := put s.session p .reset } :=
    h.closed (closeSession_arb s .restart p) rfl rfl lawful_reset hactive
  have hentry : ({ s.closeSession .restart p with session := put s.session p .reset } : State).entry p = .reset :=
    entry_put (s := s) rfl
  have hfresh := hclosed.freshJoining (p := p) (tag := tag) (by rw [hentry]; simp [PeerEntry.reset]) hactive
  have hclose : (s.closeSession .restart p).entry p = (s.entry p).closed .restart s.record.holdDownMs :=
    entry_put (closeSession_session s .restart p)
  have hsession : (s.restartSession p tag).session =
      put s.session p (((s.entry p).closed .restart s.record.holdDownMs).freshJoining s.drawnTag tag
        s.record.joinInterval) := by
    rw [State.restartSession, freshJoining_session, closeSession_session, hclose, putPut]
    rfl
  refine hfresh.change (p := p) (e := ((s.entry p).closed .restart s.record.holdDownMs).freshJoining s.drawnTag tag
    s.record.joinInterval) ?_ rfl hfresh.counter (lawful_freshJoining _ (drawnTag_ne_zero h.counter))
    (fun hn => absurd hactive hn) (fun _ => rfl) (fun hc => ?_) (fun _ _ hc => hc) fun _ _ hc => hc
  · rw [hsession, freshJoining_session, putPut, putPut]
  · have := (hfresh.claims p).2 hc
    rw [entry_put (freshJoining_session _ p tag)] at this
    exact absurd this (by simp [PeerEntry.freshJoining])

end Moves

/-! ## Every move -/

section Lines
variable {s : State} (h : SessionLaws s)
include h

/-- Where every entry is ABSENT no JOIN or TALLY claim stands (R116). -/
theorem SessionLaws.no_claims {p : Station} (absent : (s.entry p).state = .absent) :
    ¬s.arb.ClaimsJoin p ∧ ¬s.arb.ClaimsTally p := by
  obtain ⟨hj, ht⟩ := h.claims p
  rw [absent] at hj ht
  exact ⟨fun hc => PeerState.noConfusion (hj hc), fun hc => PeerState.noConfusion (ht hc)⟩

/-- All entries ABSENT and no claim that was not there: the laws hold in every station state. -/
theorem SessionLaws.all_absent {t : State} (absent : ∀ p, (t.entry p).state = .absent) (session : t.session = s.session)
    (counter : t.control.tagCounter = s.control.tagCounter)
    (joins : ∀ p, t.arb.ClaimsJoin p → s.arb.ClaimsJoin p)
    (tallies : ∀ p, t.arb.ClaimsTally p → s.arb.ClaimsTally p) : SessionLaws t := by
  have he := entry_of_same session
  refine ⟨by rw [counter]; exact h.counter, fun p => by rw [he]; exact h.entries p, fun _ p => absent p, fun p => ?_⟩
  have hno := h.no_claims (p := p) (by rw [← he]; exact absent p)
  exact ⟨fun hc => absurd (joins p hc) hno.1, fun hc => absurd (tallies p hc) hno.2⟩

end Lines

/-- Going SILENT gives a frame in hand back, and no other claim (R118, R130). -/
theorem goSilent_claims (s : State) (p : Station) :
    (s.goSilent.arb.ClaimsJoin p → s.arb.ClaimsJoin p) ∧ (s.goSilent.arb.ClaimsTally p → s.arb.ClaimsTally p) := by
  unfold State.goSilent
  cases s.line.state with
  | contending => exact giveBack_claims
  | transmitting => exact giveBack_claims
  | _ => exact ⟨id, id⟩

theorem goSilent_session (s : State) : s.goSilent.session = s.session := by
  unfold State.goSilent; cases s.line.state <;> rfl

theorem goSilent_control (s : State) : s.goSilent.control = s.control := by
  unfold State.goSilent; cases s.line.state <;> rfl

/-- What a build takes in hand was claimed (R116). -/
theorem take_claims {s : State} {ch : Choice} (offers : s.Offers ch) (p : Station) :
    ((s.arb.take ch).ClaimsJoin p → s.arb.ClaimsJoin p) ∧ ((s.arb.take ch).ClaimsTally p → s.arb.ClaimsTally p) := by
  have hput (v : Table Bool) (q : Station) : look (put v q false) p = true → look v p = true := by
    rw [look_put]; split <;> simp
  cases ch with
  | join q =>
    refine ⟨?_, fun hc => hc.elim .inl fun hc => by simp [Arbiter.take] at hc⟩
    rintro (hc | hc)
    · exact .inl (hput _ q hc)
    · simp only [Arbiter.take, Option.some.injEq, InHand.mk.injEq, HandKind.join.injEq, and_true] at hc
      exact .inl (hc ▸ offers)
  | tally q =>
    refine ⟨fun hc => hc.elim .inl fun hc => by simp [Arbiter.take] at hc, ?_⟩
    rintro (hc | hc)
    · exact .inl (hput _ q hc)
    · simp only [Arbiter.take, Option.some.injEq, InHand.mk.injEq, HandKind.tally.injEq, and_true] at hc
      exact .inl (hc ▸ offers)
  | announce | sever | first | resend =>
    exact ⟨fun hc => hc.elim .inl fun hc => by simp [Arbiter.take] at hc,
      fun hc => hc.elim .inl fun hc => by simp [Arbiter.take] at hc⟩

/-- The frame in hand ends without a claim by its completion. -/
theorem completed_claims (a : Arbiter) (p : Station) :
    (a.completed.ClaimsJoin p → a.ClaimsJoin p) ∧ (a.completed.ClaimsTally p → a.ClaimsTally p) := by
  unfold Arbiter.completed
  split <;> exact ⟨fun hc => hc.elim .inl fun hc => (nomatch hc), fun hc => hc.elim .inl fun hc => (nomatch hc)⟩

/-- A release posts a TALLY claim only for an OPEN source, and leaves control and peer table (R45). -/
theorem releaseSlot_spec (s : State) (i : RxIx) :
    (s.releaseSlot i).control = s.control ∧ (s.releaseSlot i).session = s.session ∧
      ((s.releaseSlot i).arb = s.arb ∨ ∃ p, (s.entry p).state = .opened ∧ (s.releaseSlot i).arb = s.arb.claimTally p) := by
  unfold State.releaseSlot
  split
  · exact ⟨rfl, rfl, .inl rfl⟩
  next m _ =>
    by_cases ho : (s.entry m.source).state = .opened
    · simp only [State.isOpen, ho, decide_true, if_true]
      exact ⟨rfl, rfl, .inr ⟨m.source, ho, rfl⟩⟩
    · simp only [State.isOpen, ho, decide_false]
      exact ⟨rfl, rfl, .inl rfl⟩

/-- Every move keeps the laws of the sessions. -/
theorem sessionLaws_move (s t : State) (h : SessionLaws s) (move : Move s t) : SessionLaws t := by
  cases move with
  | port _ _ => exact h.untouched rfl rfl rfl
  | control station _ tags => exact h.same rfl station tags (fun _ => .inl) fun _ => .inl
  | entry may => exact h.setEntry may
  | @arb a may =>
    refine h.same rfl rfl rfl (fun p hc => ?_) fun p hc => ?_
    · exact hc.elim (fun hc => (may.joins p hc).imp_left .inl) fun hc => .inl (.inr (may.live _ hc))
    · exact hc.elim (fun hc => (may.tallies p hc).imp_left .inl) fun hc => .inl (.inr (may.live _ hc))
  | line => exact h.untouched rfl rfl rfl
  | errors _ => exact h.untouched rfl rfl rfl
  | tx _ => exact h.untouched rfl rfl rfl
  | @freshJoining p _ notOpen may =>
    refine h.freshJoining notOpen (may.elim (·.1) fun hl => h.active (p := p) (by simp [hl]))
  | openSession joining _ peerTag => exact h.openSession joining peerTag
  | closeSession live notRestart _ => exact h.closeSession live notRestart
  | restart opened _ => exact h.restartSession opened
  | accept _ _ => exact h.untouched rfl rfl rfl
  | @release c i _ =>
    obtain ⟨hcontrol, hsession, harb⟩ := releaseSlot_spec (s.dequeue c i) i
    refine h.same hsession (congrArg _ hcontrol) (congrArg _ hcontrol) (fun q hc => .inl ?_) fun q hc => ?_ <;>
      rw [setCommand_arb] at hc <;> obtain ha | ⟨p, ho, ha⟩ := harb <;> rw [ha] at hc
    · exact hc
    · exact hc
    · exact .inl hc
    · obtain rfl | hq := eq_or_ne q p
      · exact .inr ho
      · exact .inl (hc.imp_left (by simp [Arbiter.claimTally, look_put_ne _ _ (Ne.symm hq)]))
  | pop _ => exact h.untouched rfl rfl rfl
  | @config image r _ station =>
    have habsent := h.quiet (by obtain hst | ⟨hst, -⟩ := station <;> simp [hst])
    have he : ∀ p, (s.applyConfig r).entry p = s.entry p ∨ (s.applyConfig r).entry p = .reset := by
      intro p
      simp only [State.entry, applyConfig_session]
      split
      · rw [look_put]; split
        · exact .inr rfl
        · exact .inl rfl
      · exact .inl rfl
    have habsent' : ∀ p, ((s.applyConfig r).entry p).state = .absent := fun p =>
      (he p).elim (fun hp => by rw [hp]; exact habsent p) fun hp => by rw [hp]; rfl
    refine ⟨h.counter, fun p => ?_, fun _ => habsent', fun p => ?_⟩
    · obtain hp | hp := he p <;> rw [hp]
      · exact h.entries p
      · exact lawful_reset
    · have hno := h.no_claims (habsent p)
      exact ⟨fun hc => absurd hc hno.1, fun hc => absurd hc hno.2⟩
  | start configured =>
    exact h.all_absent (fun p => h.quiet (by simp [configured]) p) rfl rfl (fun _ => id) fun _ => id
  | leave absent _ =>
    have hhand {k : HandKind} (hc : s.arb.clearAnnounce.inHand = some ⟨k, false⟩) : s.arb.inHand = some ⟨k, false⟩ :=
      (live_of_withdrawn (P := (· = .announce)) hc).1
    exact h.all_absent absent rfl rfl (fun _ hc => hc.imp_right hhand) fun _ hc => hc.imp_right hhand
  | drained leaving _ =>
    have hsession : (s.setStation .configured).goSilent.idleEnded.session = s.session := goSilent_session _
    have hcontrol : (s.setStation .configured).goSilent.idleEnded.control = { s.control with station := .configured } :=
      goSilent_control _
    refine h.all_absent (fun p => ?_) hsession (by rw [hcontrol]) (fun p => (goSilent_claims _ p).1)
      fun p => (goSilent_claims _ p).2
    rw [entry_of_same hsession]
    exact h.quiet (by simp [leaving]) p
  | @mute n absent _ _ =>
    have hlive {k : HandKind} (hc : s.arb.mute.inHand = some ⟨k, false⟩) : False := by
      obtain ⟨_, _, hk⟩ := Option.map_eq_some_iff.mp hc
      cases hk
    have hmute (p : Station) : ¬s.arb.mute.ClaimsJoin p ∧ ¬s.arb.mute.ClaimsTally p :=
      ⟨fun hc => hc.elim (by simp [Arbiter.mute]) hlive, fun hc => hc.elim (by simp [Arbiter.mute]) hlive⟩
    have hsession := goSilent_session
      { s.setStation .muted with arb := s.arb.mute, line := { s.line with aborts := n } }
    refine h.all_absent (fun p => ?_) hsession (by rw [goSilent_control]; rfl)
      (fun p hc => absurd ((goSilent_claims _ p).1 hc) (hmute p).1)
      fun p hc => absurd ((goSilent_claims _ p).2 hc) (hmute p).2
    rw [entry_of_same hsession]
    exact absent p
  | build _ choice =>
    exact h.same rfl rfl rfl (fun p hc => .inl ((take_claims (select_offers choice) p).1 hc))
      fun p hc => .inl ((take_claims (select_offers choice) p).2 hc)
  | lose _ =>
    exact h.same rfl rfl rfl (fun p hc => .inl ((giveBack_claims (a := { s.arb with yield := false })).1 hc))
      fun p hc => .inl ((giveBack_claims (a := { s.arb with yield := false })).2 hc)
  | won _ _ => exact h.untouched rfl rfl rfl
  | completed transmitting =>
    rw [frameCompletedEffect_transmitting transmitting]
    exact h.same rfl rfl rfl (fun p hc => .inl ((completed_claims s.arb p).1 hc))
      fun p hc => .inl ((completed_claims s.arb p).2 hc)
  | aborted _ =>
    exact h.same rfl rfl rfl (fun p hc => .inl (giveBack_claims.1 hc)) fun p hc => .inl (giveBack_claims.2 hc)
  | marked _ _ => exact h.untouched rfl rfl rfl
  | draw => exact h.untouched rfl rfl rfl
  | countDown =>
    have he (p : Station) : s.countDown.entry p = (s.entry p).tick := by simp [State.entry]
    refine ⟨h.counter, fun p => by rw [he]; exact lawful_tick (h.entries p), fun hn p => ?_, fun p => ?_⟩
    · rw [he]; exact h.quiet hn p
    · rw [he]; exact h.claims p

/-- The laws of the sessions hold after a reset (R3). -/
theorem sessionLaws_afterReset (s : State) (rst cs : PinLevel) : SessionLaws (s.afterReset rst cs) := by
  have he (p : Station) : (s.afterReset rst cs).entry p = .reset := look_replicate _ _
  refine ⟨by simp [StationControl.reset], fun p => by rw [he]; exact lawful_reset, fun _ p => by rw [he]; rfl,
    fun p => ?_⟩
  simp [Arbiter.reset]

/-- Settles O54: each move that writes an entry leaves it with the tags and timers of its new state and takes the claims
of its old one with it, so a step, a run of moves, keeps the four laws. -/
theorem sessionLawsKept : Obligations.SessionLawsKept := by
  intro s t tags timers quiet claims hstep
  exact sessionLaws_iff.mp
    (kept_by_step sessionLaws_move (fun _ _ h => h.untouched rfl rfl rfl) sessionLaws_afterReset
      (sessionLaws_iff.mpr ⟨tags, timers, quiet, claims⟩) hstep)

end Sys2Proof.Machine

/-! PROOFS. The laws of the line and the port: the line and its buffer move by move (R116, R124, R126 to R130), the two
counts (R129, R133), the pins of an open transaction (R137), and the station held in reset, command by command (R161). -/

namespace Sys2Proof.Machine

/-! ## Going SILENT -/

section Silent
variable (s : State)

/-- The line after it has gone SILENT: nothing in the buffer, and a marker behind a frame that had won (R130). -/
theorem goSilent_line : s.goSilent.line =
    { s.line with
      state := .silent, outbound := none, marker := s.line.marker || decide (s.line.state = .transmitting) } := by
  unfold State.goSilent
  cases hl : s.line.state <;> simp

/-- Nothing is in hand then, if a frame is in hand only while it contends or is on the line (R116). -/
theorem goSilent_inHand (h : s.arb.inHand.isSome = true → s.line.state = .contending ∨ s.line.state = .transmitting) :
    s.goSilent.arb.inHand = none := by
  unfold State.goSilent
  cases hl : s.line.state with
  | contending => exact giveBack_inHand
  | transmitting => exact giveBack_inHand
  | silent | idle | receiving =>
    refine Option.not_isSome_iff_eq_none.mp fun hs => ?_
    have := h hs
    simp [hl] at this

@[simp] theorem goSilent_port : s.goSilent.port = s.port := by
  unfold State.goSilent; cases s.line.state <;> rfl

@[simp] theorem goSilent_rx : s.goSilent.rx = s.rx := by
  unfold State.goSilent; cases s.line.state <;> rfl

end Silent

/-- A release reaches neither the line nor the port (R45). -/
theorem releaseSlot_line (s : State) (i : RxIx) : (s.releaseSlot i).line = s.line := by
  unfold State.releaseSlot
  split
  · rfl
  · simp only; split <;> rfl

theorem releaseSlot_port (s : State) (i : RxIx) : (s.releaseSlot i).port = s.port := by
  unfold State.releaseSlot
  split
  · rfl
  · simp only; split <;> rfl

/-! ## The line -/

section Line
variable {s t : State} (h : LineLaw s)
include h

/-- The station of a line that is not SILENT is ACTIVE or LEAVING (R124). -/
theorem lineLaw_on_line (hl : s.line.state ≠ .silent) :
    s.control.station = .active ∨ s.control.station = .leaving := by
  by_contra hn
  exact hl (h.1.mpr (not_or.mp hn))

/-- A frame is in hand only while it contends or is on the line (R116). -/
theorem lineLaw_inHand (hi : s.arb.inHand.isSome = true) :
    s.line.state = .contending ∨ s.line.state = .transmitting := by
  obtain ⟨-, hout, hhand, -⟩ := h
  exact hout.mp (by rw [← hhand]; exact hi)

/-- While it is neither, nothing is in the buffer and nothing in hand (R116). -/
theorem lineLaw_free (h1 : s.line.state ≠ .contending) (h2 : s.line.state ≠ .transmitting) :
    s.line.outbound = none ∧ s.arb.inHand = none := by
  obtain ⟨-, hout, hhand, -⟩ := h
  have hn : s.line.outbound = none :=
    Option.not_isSome_iff_eq_none.mp fun hs => (hout.mp hs).elim h1 h2
  exact ⟨hn, Option.not_isSome_iff_eq_none.mp (by simp [hhand, hn])⟩

/-- The line law rests on the station state, the line and whether a frame is in hand. -/
theorem lineLaw_same (station : t.control.station = s.control.station) (line : t.line = s.line)
    (inHand : t.arb.inHand.isSome = s.arb.inHand.isSome) : LineLaw t := by
  simpa only [LineLaw, station, line, inHand] using h

/-- A frame of this station ends on a line that then reads: buffer and hand are empty (R126 to R128). -/
theorem lineLaw_ended {phase : ReadPhase} (own : s.line.state = .contending ∨ s.line.state = .transmitting)
    (station : t.control.station = s.control.station) (state : t.line.state = .receiving phase)
    (outbound : t.line.outbound = none) (marker : t.line.marker = s.line.marker) (inHand : t.arb.inHand = none) :
    LineLaw t := by
  have hst := lineLaw_on_line h (by obtain ho | ho := own <;> simp [ho])
  have hmark : s.line.marker = false := by
    by_contra hm
    obtain ⟨-, -, -, hmk⟩ := h
    have := hmk (by simpa using hm)
    obtain ho | ho := own <;> simp [ho] at this
  refine ⟨?_, ?_, ?_, ?_⟩
  · rw [state, station]
    obtain hst | hst := hst <;> simp [hst]
  · simp [state, outbound]
  · simp [outbound, inHand]
  · simp [marker, hmark]

omit h in
/-- A station that leaves the line with nothing more to send, or is muted on it, is SILENT (R130). -/
theorem lineLaw_silenced (line : t.line.state = .silent) (outbound : t.line.outbound = none)
    (inHand : t.arb.inHand = none) (station : t.control.station ≠ .active ∧ t.control.station ≠ .leaving) : LineLaw t := by
  refine ⟨by simp [line, station], by simp [line, outbound], by simp [outbound, inHand], fun _ => .inr line⟩

end Line

/-- Every move keeps the line law. -/
theorem lineLaw_move (s t : State) (h : LineLaw s) (move : Move s t) : LineLaw t := by
  cases move with
  | port _ _ => exact lineLaw_same h rfl rfl rfl
  | control station _ _ => exact lineLaw_same h station rfl rfl
  | entry _ => exact lineLaw_same h rfl rfl rfl
  | @arb a may =>
    refine lineLaw_same h rfl rfl ?_
    have := congrArg Option.isSome may.kind
    simpa using this
  | @line l before after buffer aborts errors marker =>
    obtain ⟨hsil, hout, hhand, hmark⟩ := h
    have hno (x : LineState) (hx : x.isListening = true) : x ≠ .silent ∧ ¬(x = .contending ∨ x = .transmitting) := by
      cases x <;> simp [LineState.isListening] at hx ⊢
    obtain ⟨hs, hc⟩ := hno _ before
    obtain ⟨hs', hc'⟩ := hno _ after
    refine ⟨iff_of_false hs' fun hst => hs (hsil.mpr hst), ?_, by rw [buffer]; exact hhand, fun hm => .inl ?_⟩
    · rw [buffer]
      exact iff_of_false (fun hb => hc (hout.mp hb)) hc'
    · obtain ⟨hm', hg | hg⟩ := marker hm
      · exact hg
      · exact absurd ((hmark hm').resolve_right hs) hg
  | errors _ => exact h
  | tx _ => exact lineLaw_same h rfl rfl rfl
  | freshJoining _ _ => exact lineLaw_same h rfl rfl rfl
  | openSession _ _ _ => exact lineLaw_same h rfl rfl (by simp [Arbiter.withdrawJoin, Arbiter.withdrawHand, Arbiter.claimTally])
  | closeSession _ _ _ => exact lineLaw_same h rfl rfl (by simp [closePeer_claims])
  | restart _ _ => exact lineLaw_same h rfl rfl (by simp [State.restartSession, closePeer_claims, Arbiter.claimJoin])
  | accept _ _ => exact lineLaw_same h rfl rfl rfl
  | @release c i _ =>
    obtain ⟨hcontrol, -, harb⟩ := releaseSlot_spec (s.dequeue c i) i
    have hline : ((s.dequeue c i).releaseSlot i).line = s.line := releaseSlot_line _ i
    refine lineLaw_same h (congrArg _ hcontrol) hline ?_
    obtain ha | ⟨p, -, ha⟩ := harb <;> rw [setCommand_arb, ha] <;> rfl
  | pop _ => exact lineLaw_same h rfl rfl rfl
  | config _ station =>
    have hs : s.line.state = .silent := h.1.mpr (by obtain hst | ⟨hst, -⟩ := station <;> simp [hst])
    exact ⟨by simp [hs], h.2⟩
  | start configured =>
    have hs : s.line.state = .silent := h.1.mpr (by simp [configured])
    obtain ⟨hout, hhand⟩ := lineLaw_free h (by simp [hs]) (by simp [hs])
    exact ⟨by simp, by simp [hout], by simp [hout, hhand], by simp⟩
  | leave _ active =>
    have hs : s.line.state ≠ .silent := fun hs => (h.1.mp hs).1 active
    exact ⟨by simp [hs], h.2.1, by simp [Arbiter.clearAnnounce, Arbiter.withdrawHand, h.2.2.1], h.2.2.2⟩
  | drained leaving _ =>
    refine lineLaw_silenced (by simp [goSilent_line]) (by simp [goSilent_line]) ?_ ?_
    · exact goSilent_inHand (s.setStation .configured) fun hi => lineLaw_inHand (s := s) h hi
    · rw [idleEnded_control, goSilent_control]; simp
  | mute _ _ _ =>
    refine lineLaw_silenced (by simp [goSilent_line]) (by simp [goSilent_line]) ?_ ?_
    · exact goSilent_inHand _ fun hi => lineLaw_inHand (s := s) h (by simpa [Arbiter.mute] using hi)
    · rw [goSilent_control]; simp
  | @build ch may _ =>
    have hm : (s.control.station = .active ∨ s.control.station = .leaving) ∧ s.line.state = .idle ∧
        s.line.outbound = none := by simpa [State.maySelect] using may
    have hmark : s.line.marker = false := by
      by_contra hmk
      have := h.2.2.2 (by simpa using hmk)
      simp [hm.2.1] at this
    refine ⟨?_, by simp, ?_, by simp [hmark]⟩
    · obtain hst | hst := hm.1 <;> simp [hst]
    · cases ch <;> rfl
  | lose contending => exact lineLaw_ended h (.inl contending) rfl rfl rfl rfl giveBack_inHand
  | won contending _ =>
    obtain ⟨hsil, hout, hhand, hmark⟩ := h
    have hst := lineLaw_on_line ⟨hsil, hout, hhand, hmark⟩ (by simp [contending])
    refine ⟨?_, ?_, hhand, fun hm => ?_⟩
    · obtain hst | hst := hst <;> simp [hst]
    · simpa [contending] using hout
    · have := hmark hm
      simp [contending] at this
  | completed transmitting =>
    rw [frameCompletedEffect_transmitting transmitting]
    refine lineLaw_ended h (.inr transmitting) rfl rfl rfl rfl ?_
    show s.arb.completed.inHand = none
    unfold Arbiter.completed
    split <;> rfl
  | aborted transmitting => exact lineLaw_ended h (.inr transmitting) rfl rfl rfl rfl giveBack_inHand
  | marked gap _ => exact ⟨h.1, h.2.1, h.2.2.1, fun _ => .inl gap⟩
  | draw => exact h
  | countDown => exact lineLaw_same h rfl rfl rfl

/-! ## The two counts -/

/-- The counts law rests on the station state and on the two counts. -/
theorem countLaw_same {s t : State} (h : CountLaw s) (station : t.control.station = s.control.station)
    (aborts : t.line.aborts = s.line.aborts) (errors : t.line.errors = s.line.errors) : CountLaw t := by
  simpa only [CountLaw, station, aborts, errors] using h

/-- Every move keeps the ranges of the counts, with the line law beside it: a line that reads the gap is that of an ACTIVE
or LEAVING station (R129, R133). -/
theorem countLaw_move (s t : State) (line : LineLaw s) (h : CountLaw s) (move : Move s t) : CountLaw t := by
  obtain ⟨haborts, height, herrors⟩ := h
  have small (hst : s.control.station ≠ .muted) : s.line.aborts ≠ 8 := fun h8 => hst (height h8)
  cases move with
  | control station _ _ => exact countLaw_same ⟨haborts, height, herrors⟩ station rfl rfl
  | line before _ _ aborts errors _ =>
    exact ⟨by rw [aborts]; exact haborts, by rw [aborts]; exact height, errors.elim (fun he => he.trans herrors) id⟩
  | errors le => exact ⟨haborts, height, by simp only; omega⟩
  | @release c i _ =>
    obtain ⟨hcontrol, -, -⟩ := releaseSlot_spec (s.dequeue c i) i
    have hline : ((s.dequeue c i).releaseSlot i).line = s.line := releaseSlot_line _ i
    exact countLaw_same ⟨haborts, height, herrors⟩ (congrArg _ hcontrol) (congrArg _ hline) (congrArg _ hline)
  | config _ station =>
    have := small (by obtain hst | ⟨hst, -⟩ := station <;> simp [hst])
    exact ⟨haborts, fun h8 => absurd h8 this, herrors⟩
  | start configured => exact ⟨haborts, fun h8 => absurd h8 (small (by simp [configured])), herrors⟩
  | leave _ active => exact ⟨haborts, fun h8 => absurd h8 (small (by simp [active])), herrors⟩
  | drained leaving _ =>
    have := small (by simp [leaving])
    simp only [CountLaw, idleEnded_line, idleEnded_control, goSilent_line, goSilent_control]
    exact ⟨haborts, fun h8 => absurd h8 this, herrors⟩
  | mute _ le _ =>
    simp only [CountLaw, goSilent_line, goSilent_control]
    exact ⟨by omega, fun _ => rfl, herrors⟩
  | completed transmitting =>
    rw [frameCompletedEffect_transmitting transmitting]
    exact ⟨Nat.zero_le _, fun h => by simp at h, herrors⟩
  | @marked n gap le =>
    have hst := lineLaw_on_line line (by simp [gap])
    have h7 : n ≤ 7 := by
      obtain hn | rfl | ⟨h1, h2⟩ := le
      · exact hn
      · have := small (by obtain hst | hst := hst <;> simp [hst])
        omega
      · exact absurd hst (not_or.mpr ⟨h1, h2⟩)
    exact ⟨by simp only; omega, fun h8 => by simp only at h8; omega, herrors⟩
  | _ => exact countLaw_same ⟨haborts, height, herrors⟩ rfl rfl rfl

/-! ## The pins of a transaction -/

/-- A transaction is open only while CS is low and RST high (R137, R151). -/
def HostPort.PinLaw (h : HostPort) : Prop := h.txn.isSome = true → h.cs = .low ∧ h.rst = .high

/-- What an open transaction notes leaves the pins as they are (R143). -/
theorem pinLaw_onCommand {h : HostPort} (hp : h.PinLaw) (f : TxnCommand → TxnCommand) : (h.onCommand f).PinLaw := by
  intro hs
  exact hp (by simpa [HostPort.onCommand] using hs)

/-- Every move keeps the pins of a transaction. -/
theorem pinLaw_move (s t : State) (h : s.port.PinLaw) (move : Move s t) : t.port.PinLaw := by
  cases move with
  | @port p may _ =>
    intro hs
    obtain ⟨x, hx⟩ := Option.isSome_iff_exists.mp hs
    obtain ⟨-, ⟨hsome, hcs, hrst⟩ | hpins⟩ := may x hx
    · obtain ⟨hcs', hrst'⟩ := h hsome
      exact ⟨hcs.elim (·.trans hcs') id, hrst.trans hrst'⟩
    · exact hpins
  | openSession _ _ _ => exact pinLaw_onCommand h _
  | closeSession _ _ _ => exact pinLaw_onCommand h _
  | restart _ _ => exact pinLaw_onCommand h _
  | @release c i _ =>
    rw [setCommand_port, releaseSlot_port]
    exact pinLaw_onCommand h _
  | pop _ => exact pinLaw_onCommand h _
  | drained _ _ => rw [idleEnded_port, goSilent_port]; exact h
  | mute _ _ _ => rw [goSilent_port]; exact h
  | completed transmitting => rw [frameCompletedEffect_transmitting transmitting]; exact h
  | _ => exact h

/-! ## Held in reset (R161) -/

section Held
variable (s : State)

/-- ATTN stands unasserted at its level while the station is held in reset: the mask is 0 (R148, R162). -/
theorem held_driveAttn : s.held.driveAttn = s.held := by
  apply driveAttn_of_level
  have : s.held.control.mask = 0 := rfl
  simp [State.attnLevel, this]
  rfl

/-- No entry's timer runs while the station is held in reset, and no ack timer. -/
theorem held_timers (p : Station) : s.held.entry p = .reset ∧ look s.held.tx.ackTimers p = .stopped := by
  constructor
  · exact look_replicate _ _
  · exact look_replicate _ _

/-- A tick passes a station held in reset by. -/
theorem held_tick : s.held.tick = s.held := by
  have hdown : s.held.countDown = s.held := by
    have h1 : mapAll PeerEntry.tick s.held.session = s.held.session :=
      table_ext _ _ fun p => by rw [look_mapAll]; exact congrArg PeerEntry.tick (held_timers s p).1 |>.trans (held_timers s p).1.symm
    have h2 : mapAll Timer.tick s.held.tx.ackTimers = s.held.tx.ackTimers :=
      table_ext _ _ fun p => by rw [look_mapAll, (held_timers s p).2]; rfl
    simp only [State.countDown, h1, h2]
  have hdue : s.held.dueExpiries = [] := by
    simp only [State.dueExpiries, List.flatMap_eq_nil_iff]
    intro p _
    obtain ⟨he, ha⟩ := held_timers s p
    simp [State.dueFor, he, ha, PeerEntry.reset, Timer.due]
  simp only [State.tick, hdown, hdue]

/-- A station held in reset takes no command, reads no frame and meets no expiry: a command leaves it held, at CS's new
level, or ends the reset (R161). -/
theorem held_exec (c : Instr) :
    ∃ t : State, exec c s.held = .next t ∧ (t.port.rst = .low → ∃ u : State, t = u.held) := by
  have of_held {u v : State} (hu : exec c s.held = done u) (hv : u = v.held) :
      ∃ t : State, exec c s.held = .next t ∧ (t.port.rst = .low → ∃ u : State, t = u.held) :=
    ⟨v.held, by rw [hu, hv, done_eq, held_driveAttn], fun _ => ⟨v, rfl⟩⟩
  have untaken (effect : State → State) : s.held.onCommand effect = s.held := onCommand_closed rfl effect
  have unread (p : Station) (a l : State → State) : s.held.frameReceived p a l = s.held := frameReceived_deaf rfl p a l
  have of_reset {rst cs : PinLevel} {u : State} (hu : exec c s.held = done (u.afterReset rst cs)) :
      ∃ t : State, exec c s.held = .next t ∧ (t.port.rst = .low → ∃ u : State, t = u.held) := by
    refine ⟨_, by rw [hu, done_eq], fun hr => ⟨u.afterReset rst cs, ?_⟩⟩
    have hr : rst = .low := hr
    subst hr
    exact held_driveAttn (u.afterReset .low cs)
  have stopped (p : Station) : (s.held.entry p) = .reset ∧ look s.held.tx.ackTimers p = .stopped := held_timers s p
  cases c with
  | configure | start | leave | reset | submit | cancel | completions | take | peek | status | peers | mask
  | unknownCommand => exact of_held rfl (untaken _)
  | completionRecordRead | takeComplete | statusReadClear | peersReadClear => exact of_held rfl rfl
  | transactionBegin =>
    cases hcs : s.port.cs with
    | high =>
      refine of_held (v := { s with port := { s.port with cs := .low } }) rfl ?_
      have h1 : s.held.port.cs = .high := hcs
      have h2 : s.held.port.rst = .low := rfl
      simp only [State.beginTransaction, h1, h2]
      rfl
    | low =>
      refine of_held (v := s) rfl ?_
      have h1 : s.held.port.cs = .low := hcs
      simp only [State.beginTransaction, h1]
  | transactionEnd => exact of_held (v := { s with port := { s.port with cs := .high } }) rfl rfl
  | resetPin move =>
    cases move with
    | falls => exact of_reset (u := s.held) rfl
    | rises => exact of_reset (u := s.held) rfl
    | pulse => exact of_reset (u := s.held) rfl
  | powerOn pins => exact of_reset (u := s.held) rfl
  | frameBuild | frameWon | frameLost | frameCompleted | frameAborted | idleBegun | windowOut | frameDiscard
  | drained | startBitReceived => exact of_held rfl rfl
  | announceReceived | joinReceived | severReceived | tallyReceived | frameAddressedToAnotherStation =>
    exact of_held rfl (unread _ _ _)
  | messageReceived =>
    refine of_held (v := s) rfl ?_
    split
    · rfl
    · exact unread _ _ _
  | joinTimerExpiry p =>
    refine of_held rfl (if_neg ?_)
    simp [stopped p, PeerEntry.reset, Timer.isRunning]
  | holdDownExpiry p =>
    refine of_held rfl (if_neg ?_)
    simp [stopped p, PeerEntry.reset, Timer.isRunning]
  | silenceExpiry p =>
    refine of_held rfl (if_neg ?_)
    simp [stopped p, PeerEntry.reset, Timer.isRunning]
  | refreshExpiry p =>
    refine of_held rfl (if_neg ?_)
    simp [stopped p, PeerEntry.reset, Timer.isRunning]
  | ackTimerExpiry p =>
    refine of_held rfl (if_neg ?_)
    simp [stopped p, Timer.isRunning]

end Held

/-- No move moves RST. -/
theorem rst_of_moves {s t : State} (h : Reaches s t) : t.port.rst = s.port.rst := by
  refine kept_of_moves (P := fun u => u.port.rst = s.port.rst) (fun u v hu move => ?_) h rfl
  refine Eq.trans ?_ hu
  cases move with
  | port _ rst => exact rst
  | @release c i _ =>
    rw [setCommand_port, releaseSlot_port]
    rfl
  | drained _ _ => rw [idleEnded_port, goSilent_port]; rfl
  | mute _ _ _ => rw [goSilent_port]; rfl
  | completed transmitting => rw [frameCompletedEffect_transmitting transmitting]
  | _ => rfl

/-! ## The statement -/

/-- The line, the counts and the pins together, as the moves keep them. -/
def LinePortLaws (s : State) : Prop := LineLaw s ∧ CountLaw s ∧ s.port.PinLaw

theorem linePortLaws_move (s t : State) (h : LinePortLaws s) (move : Move s t) : LinePortLaws t :=
  ⟨lineLaw_move s t h.1 move, countLaw_move s t h.1 h.2.1 move, pinLaw_move s t h.2.2 move⟩

theorem linePortLaws_afterReset (s : State) (rst cs : PinLevel) : LinePortLaws (s.afterReset rst cs) := by
  refine ⟨lineLaw_silenced rfl rfl rfl (by simp [StationControl.reset]), ⟨?_, ?_, ?_⟩, fun hs => ?_⟩
  · exact Nat.zero_le _
  · exact fun h => by simp [LineUnit.reset] at h
  · exact Nat.zero_le _
  · simp [HostPort.reset] at hs

/-- After a step ATTN stands at its level, driven by the command or left there by the tick (R149). -/
theorem step_attn {s t : State} (hs : s.port.attn = s.attnLevel) (h : step s = .next t) :
    t.port.attn = t.attnLevel := by
  obtain ⟨c, rest, -, hx⟩ | ⟨-, rfl⟩ := step_cases h
  · obtain ⟨u, -, rfl⟩ := exec_moves hx
    rfl
  · have hlevel : s.countDown.attnLevel = s.attnLevel := by
      have he (p : Station) : (s.countDown.entry p).changed = (s.entry p).changed := by simp [State.entry, PeerEntry.tick]
      simp only [State.attnLevel, State.summary, State.anyChanged, he]
      rfl
    simp only [State.tick]
    split <;> exact hs.trans hlevel.symm

/-- A step of a station held in reset leaves it held while RST stays low (R161). -/
theorem held_step {s t : State} (h : step s.held = .next t) (hr : t.port.rst = .low) : ∃ u : State, t = u.held := by
  obtain ⟨c, rest, -, hx⟩ | ⟨-, rfl⟩ := step_cases h
  · obtain ⟨u, hu, hheld⟩ := held_exec { s with pending := rest } c
    have : t = u := Host.Outcome.next.inj (hx.symm.trans hu)
    subst this
    exact hheld hr
  · exact ⟨s, held_tick s⟩

/-- Settles O55: line, counts and pins go move by move, ATTN by the end of every command, and a station held in reset
takes nothing in. -/
theorem lineAndPortLawsKept : Obligations.LineAndPortLawsKept := by
  intro s t line counts ⟨pins, attn, held⟩ hstep
  obtain ⟨line', counts', pins'⟩ :=
    kept_by_step linePortLaws_move (fun _ _ h => h) linePortLaws_afterReset ⟨line, counts, pins⟩ hstep
  refine ⟨line', counts', pins', step_attn attn hstep, fun hlow => ?_⟩
  obtain ⟨l, v, hreach, hv⟩ | ⟨u, rst, cs, rfl⟩ := step_moves hstep
  · have hrst : s.port.rst = .low := (rst_of_moves hreach).symm.trans (by rw [hv] at hlow; exact hlow)
    rw [held hrst] at hstep
    obtain ⟨u, rfl⟩ := held_step hstep hlow
    rfl
  · have hlow : rst = .low := hlow
    subst hlow
    exact held_driveAttn (u.afterReset .low cs)

end Sys2Proof.Machine

/-! PROOFS. The accounting of the receive pool and the credits (R29 to R36, R45, R51): the count of FREE slots an open
finds, the reservation, the freeing, the acceptance and the release of a slot, and from these every move. -/

namespace Sys2Proof.Machine

/-! ## The FREE slots an open finds (R31) -/

/-- Each slot is FREE, or RESERVED or OCCUPIED for one peer and class. -/
theorem slot_counts_once (x : RxSlot) :
    x.isFree.toNat + ∑ q : Station, ∑ c : Cls, ((x.isReserved q c).toNat + (x.isOccupiedBy q c).toNat) = 1 := by
  have single (p : Station) (d : Cls) :
      ∑ q : Station, ∑ c : Cls, (if p = q ∧ d = c then 1 else 0) = 1 := by
    rw [Finset.sum_eq_single p (fun q _ hq => by simp [Ne.symm hq]) (by simp),
      Finset.sum_eq_single d (fun c _ hc => by simp [Ne.symm hc]) (by simp)]
    simp
  cases x with
  | free => simp [RxSlot.isFree, RxSlot.isReserved, RxSlot.isOccupiedBy]
  | reserved p d =>
    have hb (q : Station) (c : Cls) : ((RxSlot.reserved p d).isReserved q c).toNat +
        ((RxSlot.reserved p d).isOccupiedBy q c).toNat = if p = q ∧ d = c then 1 else 0 := by
      by_cases h : p = q ∧ d = c <;> simp [RxSlot.isReserved, RxSlot.isOccupiedBy, Bool.toNat, h]
    simp only [hb, single]
    rfl
  | occupied m =>
    have hb (q : Station) (c : Cls) : ((RxSlot.occupied m).isReserved q c).toNat +
        ((RxSlot.occupied m).isOccupiedBy q c).toNat = if m.source = q ∧ m.cls = c then 1 else 0 := by
      by_cases h : m.source = q ∧ m.cls = c <;>
        simp [RxSlot.isReserved, RxSlot.isOccupiedBy, Bool.toNat, ← Bool.decide_and, h]
    simp only [hb, single]
    rfl

/-- The 240 slots are the FREE ones and those of every peer and class (R29, R33). -/
theorem pool_counts (pool : Vector RxSlot Config.rxSlots) :
    countIn RxSlot.isFree pool +
      ∑ q : Station, ∑ c : Cls, (countIn (RxSlot.isReserved q c) pool + countIn (RxSlot.isOccupiedBy q c) pool) = 240 := by
  have hlist : ∀ l : List RxSlot, l.countP RxSlot.isFree +
      ∑ q : Station, ∑ c : Cls, (l.countP (RxSlot.isReserved q c) + l.countP (RxSlot.isOccupiedBy q c)) = l.length := by
    intro l
    induction l with
    | nil => simp
    | cons x l ih =>
      have hx := slot_counts_once x
      have toNat (b : Bool) : (if b = true then 1 else 0) = b.toNat := by cases b <;> rfl
      simp only [Finset.sum_add_distrib] at ih hx
      simp only [List.countP_cons, List.length_cons, toNat, Finset.sum_add_distrib]
      omega
  have := hlist pool.toList
  simpa [countIn] using this

/-- The sum of the grants is that of the four classes (R30). -/
theorem grantSum_eq (r : ConfigRecord) : r.grantSum = ∑ c : Cls, look r.grants c := by
  have h : r.grants.toList = [look r.grants 0, look r.grants 1, look r.grants 2, look r.grants 3] := by
    refine List.ext_getElem (by simp) fun i h1 h2 => ?_
    have hi : i < 4 := by simpa using h1
    interval_cases i <;> simp [look]
  simp [ConfigRecord.grantSum, h, Fin.sum_univ_four]
  omega

/-- What a valid record's grants keep to (R153). -/
theorem valid_grants {r : ConfigRecord} (h : r.valid = true) : (∀ c, look r.grants c ≤ 8) ∧ r.grantSum ≤ 16 := by
  simp only [ConfigRecord.valid, Bool.and_eq_true, List.all_eq_true, mem_classes, forall_const, decide_eq_true_eq] at h
  obtain ⟨⟨⟨⟨⟨⟨⟨⟨⟨⟨⟨⟨⟨⟨⟨⟨hc, -⟩, hs⟩, -⟩, -⟩, -⟩, -⟩, -⟩, -⟩, -⟩, -⟩, -⟩, -⟩, -⟩, -⟩, -⟩, -⟩ := h
  exact ⟨hc, hs⟩

section Room
variable {s : State} {p : Station} (h : ReceiveLaws s)
include h

/-- Outside UNCONFIGURED the record in force is a valid one (R153, R162). -/
theorem receiveLaws_record (configured : s.control.station ≠ .unconfigured) :
    s.control.config = some s.record ∧ s.record.valid = true := by
  obtain ⟨-, ⟨hnone, hvalid⟩, -⟩ := h
  cases hc : s.control.config with
  | none => exact absurd (hnone.mp hc) configured
  | some r =>
    have hr : s.record = r := by simp [State.record, hc]
    rw [hr]
    exact ⟨rfl, by simpa [hc] using hvalid⟩

/-- An entry that is not at its reset values is a peer's, and the station is configured (R2, R162). -/
theorem receiveLaws_peer (hne : s.entry p ≠ .reset) : s.own ≠ some p ∧ s.control.station ≠ .unconfigured := by
  obtain ⟨-, -, hown, -, -, -, -, hblank⟩ := h
  exact ⟨fun ho => hne (hown p ho).1, fun hu => hne (hblank hu p)⟩

/-- An entry that is not ABSENT is a peer's, of an ACTIVE station (R2, R7, R159). -/
theorem receiveLaws_live (live : (s.entry p).state ≠ .absent) :
    s.own ≠ some p ∧ s.control.station = .active := by
  refine ⟨(receiveLaws_peer h fun hr => live (by rw [hr]; rfl)).1, ?_⟩
  by_contra hn
  exact live (h.1 hn p)

/-- A JOINING peer's open finds the FREE slots it needs: fifteen peers hold at most ΣG slots each, of 240 (R31). -/
theorem receiveLaws_room (joining : (s.entry p).state = .joining) :
    (classes.map (s.toReserve p)).sum ≤ countIn RxSlot.isFree s.rx.pool := by
  obtain ⟨hne, hactive⟩ := receiveLaws_live h (p := p) (by simp [joining])
  obtain ⟨hconfig, hvalid⟩ := receiveLaws_record h (by simp [hactive])
  obtain ⟨-, -, hown, hpool, -, hgrant, -, -⟩ := h
  have ho : s.own = some s.record.ownStation := by simp [State.own, hconfig]
  generalize s.record.ownStation = o at ho
  have hsum : ∑ c : Cls, s.grant c ≤ 16 := by
    have := (valid_grants hvalid).2
    rwa [grantSum_eq] at this
  have hop : o ≠ p := fun e => hne (e ▸ ho)
  have hcount := pool_counts s.rx.pool
  simp only [← (hpool _ _).1, ← (hpool _ _).2] at hcount
  rw [← Finset.add_sum_erase _ _ (Finset.mem_univ o),
    ← Finset.add_sum_erase _ _ (Finset.mem_erase.mpr ⟨hop.symm, Finset.mem_univ p⟩)] at hcount
  have hzero : ∑ c : Cls, ((look2 s.rx.records o c).reserved + (look2 s.rx.records o c).occupied) = 0 :=
    Finset.sum_eq_zero fun c _ => by rw [(hown o ho).2 c]; rfl
  have hothers : ∑ q ∈ (Finset.univ.erase o).erase p,
      ∑ c : Cls, ((look2 s.rx.records q c).reserved + (look2 s.rx.records q c).occupied) ≤ 14 * 16 := by
    have hcard : ((Finset.univ.erase o).erase p).card = 14 := by
      rw [Finset.card_erase_of_mem (Finset.mem_erase.mpr ⟨hop.symm, Finset.mem_univ p⟩),
        Finset.card_erase_of_mem (Finset.mem_univ o)]
      rfl
    rw [← hcard, ← smul_eq_mul]
    exact Finset.sum_le_card_nsmul _ _ _ fun q _ =>
      (Finset.sum_le_sum fun c _ => (hgrant q c).1).trans hsum
  have hnotopen : s.isOpen p = false := by simp [State.isOpen, joining]
  have hres : ∀ c, (look2 s.rx.records p c).reserved = 0 := fun c => ((hgrant p c).2.2 hnotopen).2.2
  have hwant : (classes.map (s.toReserve p)).sum + ∑ c : Cls, (look2 s.rx.records p c).occupied = ∑ c : Cls, s.grant c := by
    have hle (c : Cls) : (look2 s.rx.records p c).occupied ≤ s.grant c := by
      have := (hgrant p c).1
      omega
    have h0 := hle 0; have h1 := hle 1; have h2 := hle 2; have h3 := hle 3
    simp only [classes, List.map_cons, List.map_nil, List.sum_cons, List.sum_nil, Fin.sum_univ_four, State.toReserve,
      State.grant] at h0 h1 h2 h3 ⊢
    omega
  simp only [hres, zero_add, hzero] at hcount
  omega

end Room

/-! ## Where the receive side stands -/

/-- A TAKE's head is the same while its queue and its command are. -/
theorem takeLaw_same {s t : State} (h : TakeLaw s) (queues : t.rx.queues = s.rx.queues)
    (command : ∀ c i, t.command = some (.take c i false) → s.command = some (.take c i false)) : TakeLaw t := by
  intro c i hc
  rw [queues]
  exact h c i (command c i hc)

/-- The laws stand where the Receive Unit and the record in force stand, the same entries are OPEN, and the positions that
must hold reset values do. -/
theorem receiveLaws_keep {s t : State} (h : ReceiveLaws s)
    (station : t.control.station = .unconfigured ↔ s.control.station = .unconfigured)
    (config : t.control.config = s.control.config) (rx : t.rx = s.rx) (opens : ∀ p, t.isOpen p = s.isOpen p)
    (quiet : QuietLaw t)
    (resets : ∀ p, s.own = some p ∨ s.control.station = .unconfigured → s.entry p = .reset → t.entry p = .reset)
    (take : TakeLaw t) : ReceiveLaws t := by
  obtain ⟨-, ⟨hnone, hvalid⟩, hown, hpool, hqueue, hgrant, -, hblank⟩ := h
  have hrec : t.record = s.record := record_of_same config
  have hownEq : t.own = s.own := by simp only [State.own, config]
  refine ⟨quiet, ⟨by rw [config, station]; exact hnone, by rw [config]; exact hvalid⟩, fun p hp => ?_, ?_, ?_, ?_, take,
    fun hu p => ?_⟩
  · rw [hownEq] at hp
    rw [rx]
    exact ⟨resets p (.inl hp) (hown p hp).1, (hown p hp).2⟩
  · simpa only [PoolLaw, rx] using hpool
  · simpa only [QueueLaw, rx] using hqueue
  · simpa only [GrantLaw, rx, opens, State.grant, hrec] using hgrant
  · have hu := station.mp hu
    exact resets p (.inr hu) (hblank hu p)

/-- The laws stand where control, peer table and Receive Unit do, with the TAKE. -/
theorem receiveLaws_untouched {s t : State} (h : ReceiveLaws s) (control : t.control = s.control)
    (session : t.session = s.session) (rx : t.rx = s.rx)
    (command : ∀ c i, t.command = some (.take c i false) → s.command = some (.take c i false)) : ReceiveLaws t := by
  have he := entry_of_same session
  refine receiveLaws_keep h (by rw [control]) (by rw [control]) rx (fun p => by simp only [State.isOpen, he]) ?_
    (fun p _ hr => by rw [he]; exact hr) (takeLaw_same h.2.2.2.2.2.2.1 (by rw [rx]) command)
  intro hn p
  rw [control] at hn
  rw [he]
  exact h.1 hn p

/-- What an open transaction notes is no TAKE. -/
theorem noteChanged_command {s t : State} {p : Station} (port : t.port = s.port.onCommand (.noteChanged p)) (c : Cls)
    (i : RxIx) (h : t.command = some (.take c i false)) : s.command = some (.take c i false) := by
  simp only [State.command, port, HostPort.onCommand, Option.map_map] at h
  obtain ⟨x, hx, hc⟩ := Option.map_eq_some_iff.mp h
  simp only [State.command, hx, Option.map_some, Option.some.injEq]
  revert hc
  simp only [Function.comp]
  cases x.command <;> simp [TxnCommand.noteChanged]

/-! ## The Receive Unit's operations -/

/-- The accounting alone: records, queues and grants against the pool (R33, R34, R51). -/
structure Accounts (s : State) : Prop where
  pool : PoolLaw s
  queue : QueueLaw s
  grant : GrantLaw s

/-- The distance to a count one further. -/
theorem dist_add_one_right {a b : Count} (h : dist a b < 255) : dist a (b + 1) = dist a b + 1 := by
  simp only [dist] at *
  bv_omega

/-- The distance from a count one further. -/
theorem dist_add_one_left {a b : Count} (h : 0 < dist a b) : dist (a + 1) b = dist a b - 1 := by
  simp only [dist] at *
  bv_omega

section Operations
variable {s t : State} {p : Station}

/-- The freeing of a close (R37): `p` is OPEN no longer, and the others as before. -/
theorem accounts_freePeer (h : Accounts s) (rx : t.rx = s.rx.freePeer p) (record : t.record = s.record)
    (closed : t.isOpen p = false) (others : ∀ q, q ≠ p → t.isOpen q = s.isOpen q) : Accounts t := by
  have hrec := look2_freePeer_records s.rx p
  have hocc (q : Station) (c : Cls) :
      (look2 t.rx.records q c).occupied = (look2 s.rx.records q c).occupied := by
    rw [rx, hrec]; split
    next hq => rw [hq]
    next => rfl
  refine ⟨fun q c => ⟨?_, ?_⟩, fun c => ?_, fun q c => ?_⟩
  · rw [rx, hrec]
    obtain rfl | hq := eq_or_ne q p
    · rw [if_pos rfl, countIn_freePeer_own]
    · rw [if_neg hq, countIn_freePeer_other s.rx p (RxSlot.isReserved q c) fun d => by
        simp [RxSlot.isReserved, Ne.symm hq]]
      exact (h.pool q c).1
  · rw [hocc, rx, countIn_freePeer_other s.rx p _ fun _ => rfl]
    exact (h.pool q c).2
  · obtain ⟨hn, hm⟩ := h.queue c
    rw [rx]
    refine ⟨hn, fun i => (hm i).trans ?_⟩
    rw [look_freePeer]
    split
    next hr => obtain ⟨d, hd⟩ := hr; simp [hd, RxSlot.isOccupiedIn]
    next => rfl
  · obtain ⟨hle, hopen, hclosed⟩ := h.grant q c
    simp only [State.grant, record]
    rw [rx, hrec]
    obtain rfl | hq := eq_or_ne q p
    · rw [if_pos rfl]
      refine ⟨?_, fun ho => absurd ho (by simp [closed]), fun _ => ⟨rfl, rfl, rfl⟩⟩
      simp only [State.grant] at hle
      simp only
      omega
    · rw [if_neg hq, others q hq]
      exact ⟨hle, hopen, hclosed⟩

/-- The reservation of an open (R35): every class of `p` reserves what its unread messages leave of the grant. -/
theorem accounts_reserve (h : Accounts s) (rx : t.rx = s.rx.reserve p s.record.grants) (record : t.record = s.record)
    (grants : ∀ c, s.grant c ≤ 8) (wasClosed : s.isOpen p = false) (opened : t.isOpen p = true)
    (others : ∀ q, q ≠ p → t.isOpen q = s.isOpen q)
    (room : (classes.map (s.toReserve p)).sum ≤ countIn RxSlot.isFree s.rx.pool) : Accounts t := by
  obtain ⟨hrec, hres, -, hslot, hother, hq⟩ := reserve_spec p s.record.grants s.rx room
  rw [← rx] at hrec hres hslot hother hq
  have hwant (c : Cls) : s.rx.wanted p s.record.grants c + (look2 s.rx.records p c).occupied = s.grant c := by
    have := (h.grant p c).1
    simp only [ReceiveUnit.wanted, State.grant] at this ⊢
    omega
  refine ⟨fun q c => ⟨?_, ?_⟩, fun c => ?_, fun q c => ?_⟩
  · rw [hrec]
    obtain rfl | hqp := eq_or_ne q p
    · rw [if_pos rfl, hres, ← (h.pool q c).1, ((h.grant q c).2.2 wasClosed).2.2, zero_add]
    · rw [if_neg hqp, hother _ fun d => by simp [RxSlot.isReserved, Ne.symm hqp]]
      exact (h.pool q c).1
  · have hocc : (look2 t.rx.records q c).occupied = (look2 s.rx.records q c).occupied := by
      rw [hrec]; split
      next hqp => rw [hqp]
      next => rfl
    rw [hocc, hother _ fun _ => rfl]
    exact (h.pool q c).2
  · obtain ⟨hn, hm⟩ := h.queue c
    rw [hq]
    refine ⟨hn, fun i => (hm i).trans ?_⟩
    obtain hs | ⟨hs, d, hd⟩ := hslot i
    · rw [hs]
    · rw [hs, hd]; rfl
  · obtain ⟨hle, hopen, hclosed⟩ := h.grant q c
    simp only [State.grant, record]
    rw [hrec]
    obtain rfl | hqp := eq_or_ne q p
    · have hw := hwant c
      have hg := grants c
      simp only [State.grant] at hw hg
      rw [if_pos rfl]
      refine ⟨hw.le, fun _ => ⟨hw, ?_⟩, fun hc => absurd hc (by simp [opened])⟩
      simp only [dist]
      bv_omega
    · rw [if_neg hqp, others q hqp]
      exact ⟨hle, hopen, hclosed⟩

/-- An acceptance (R40): a slot RESERVED for `p` and its class holds the message now. -/
theorem accounts_accept (h : Accounts s) {c : Cls} {payload : List Byte} (opened : s.isOpen p = true)
    (reserved : 0 < (look2 s.rx.records p c).reserved) (rx : t.rx = s.rx.accept p c payload)
    (record : t.record = s.record) (opens : ∀ q, t.isOpen q = s.isOpen q) : Accounts t := by
  have hslot : ∃ i, look s.rx.pool i = .reserved p c := by
    obtain ⟨i, hi⟩ := countIn_pos.mp ((h.pool p c).1 ▸ reserved)
    exact ⟨i, by simpa [RxSlot.isReserved] using hi⟩
  obtain ⟨i, hfind, hi⟩ := findIx_reserved hslot
  have hpool : t.rx.pool = put s.rx.pool i (.occupied ⟨p, c, payload.length, payload⟩) := by
    rw [rx]; simp [ReceiveUnit.accept, hfind]
  have hrec : t.rx.records = put2 s.rx.records p c
      ⟨(look2 s.rx.records p c).accepted + 1, (look2 s.rx.records p c).limit,
        (look2 s.rx.records p c).reserved - 1, (look2 s.rx.records p c).occupied + 1⟩ := by
    rw [rx]; simp [ReceiveUnit.accept, hfind]
  have hqueues : t.rx.queues = alter s.rx.queues c (· ++ [i]) := by
    rw [rx]; simp [ReceiveUnit.accept, hfind]
  refine ⟨fun q d => ?_, fun d => ?_, fun q d => ?_⟩
  · obtain ⟨hr, ho⟩ := h.pool q d
    have h1 := countIn_put (RxSlot.isReserved q d) s.rx.pool i (.occupied ⟨p, c, payload.length, payload⟩)
    have h2 := countIn_put (RxSlot.isOccupiedBy q d) s.rx.pool i (.occupied ⟨p, c, payload.length, payload⟩)
    rw [hi] at h1 h2
    rw [hpool, hrec, look2_put2]
    by_cases hqd : p = q ∧ c = d
    · obtain ⟨rfl, rfl⟩ := hqd
      simp [RxSlot.isReserved, RxSlot.isOccupiedBy] at h1 h2
      simp only [and_self, if_true]
      omega
    · have hres : (RxSlot.reserved p c).isReserved q d = false := by simpa [RxSlot.isReserved] using hqd
      have hocc : (RxSlot.occupied ⟨p, c, payload.length, payload⟩).isOccupiedBy q d = false := by
        simpa [RxSlot.isOccupiedBy] using hqd
      rw [hres] at h1
      rw [hocc] at h2
      simp [RxSlot.isReserved, RxSlot.isOccupiedBy] at h1 h2
      rw [if_neg hqd]
      omega
  · obtain ⟨hn, hm⟩ := h.queue d
    rw [hqueues, hpool, look_alter]
    obtain rfl | hcd := eq_or_ne c d
    · have hnot : i ∉ look s.rx.queues c := fun hin => by
        have := (hm i).mp hin
        simp [hi, RxSlot.isOccupiedIn] at this
      rw [if_pos rfl]
      have happ : (look s.rx.queues c ++ [i]).Nodup :=
        List.nodup_append'.mpr ⟨hn, List.nodup_singleton i, List.disjoint_singleton.mpr hnot⟩
      refine ⟨happ, fun j => ?_⟩
      rw [look_put, List.mem_append, List.mem_singleton]
      obtain rfl | hij := eq_or_ne i j
      · simp [RxSlot.isOccupiedIn]
      · simpa [hij, Ne.symm hij] using hm j
    · rw [if_neg hcd]
      refine ⟨hn, fun j => (hm j).trans ?_⟩
      rw [look_put]
      obtain rfl | hij := eq_or_ne i j
      · simp [hi, RxSlot.isOccupiedIn, hcd]
      · simp [hij]
  · obtain ⟨hle, hopen, hclosed⟩ := h.grant q d
    simp only [State.grant, record] at hle hopen ⊢
    rw [hrec, look2_put2, opens]
    by_cases hqd : p = q ∧ c = d
    · obtain ⟨rfl, rfl⟩ := hqd
      obtain ⟨hsum, hdist⟩ := hopen opened
      rw [if_pos ⟨rfl, rfl⟩]
      refine ⟨by simp only; omega, fun _ => ⟨by simp only; omega, ?_⟩, fun hc => absurd hc (by simp [opened])⟩
      simp only
      rw [dist_add_one_left (by omega), hdist]
    · rw [if_neg hqd]
      exact ⟨hle, hopen, hclosed⟩

/-- A release (R45): the head of its queue leaves it, and its slot is RESERVED again or FREE. -/
theorem accounts_release (h : Accounts s) {c : Cls} {i : RxIx} {m : MsgRecord} (grants : ∀ c, s.grant c ≤ 8)
    (held : look s.rx.pool i = .occupied m) (cls : m.cls = c)
    (rx : t.rx = ({ s.rx with queues := alter s.rx.queues c (·.erase i) } : ReceiveUnit).release i m (s.isOpen m.source))
    (record : t.record = s.record) (opens : ∀ q, t.isOpen q = s.isOpen q) : Accounts t := by
  obtain ⟨src, cls', len, payload⟩ := m
  have cls : cls' = c := cls
  subst cls
  obtain ⟨x, hx, hpool⟩ : ∃ x, (x = if s.isOpen src then RxSlot.reserved src cls' else .free) ∧
      t.rx.pool = put s.rx.pool i x := by
    refine ⟨_, rfl, ?_⟩
    rw [rx]
    simp only [ReceiveUnit.release]
    split <;> rfl
  have hrec : t.rx.records = put2 s.rx.records src cls' (if s.isOpen src then
      ⟨(look2 s.rx.records src cls').accepted, (look2 s.rx.records src cls').limit + 1,
        (look2 s.rx.records src cls').reserved + 1, (look2 s.rx.records src cls').occupied - 1⟩
      else { look2 s.rx.records src cls' with occupied := (look2 s.rx.records src cls').occupied - 1 }) := by
    rw [rx]
    simp only [ReceiveUnit.release]
    split <;> rfl
  have hqueues : t.rx.queues = alter s.rx.queues cls' (·.erase i) := by
    rw [rx]
    simp only [ReceiveUnit.release]
    split <;> rfl
  have hin : (x.isOccupiedBy src cls' = false) ∧ (∀ d, x.isOccupiedIn d = false) ∧
      ∀ q d, (x.isOccupiedBy q d = false) ∧
        x.isReserved q d = (s.isOpen src && decide (src = q ∧ cls' = d)) := by
    rw [hx]
    cases s.isOpen src <;> simp [RxSlot.isOccupiedBy, RxSlot.isOccupiedIn, RxSlot.isReserved]
  obtain ⟨-, hin, hby⟩ := hin
  refine ⟨fun q d => ?_, fun d => ?_, fun q d => ?_⟩
  · obtain ⟨hr, ho⟩ := h.pool q d
    have h1 := countIn_put (RxSlot.isReserved q d) s.rx.pool i x
    have h2 := countIn_put (RxSlot.isOccupiedBy q d) s.rx.pool i x
    rw [held, (hby q d).2] at h1
    rw [held, (hby q d).1] at h2
    rw [hpool, hrec, look2_put2]
    by_cases hqd : src = q ∧ cls' = d
    · obtain ⟨rfl, rfl⟩ := hqd
      rw [if_pos ⟨rfl, rfl⟩]
      cases ho' : s.isOpen src <;> simp [RxSlot.isReserved, RxSlot.isOccupiedBy, ho'] at h1 h2 ⊢ <;> omega
    · rw [if_neg hqd]
      have hqd2 : decide (src = q ∧ cls' = d) = false := by simpa using hqd
      have hocc : (RxSlot.occupied ⟨src, cls', len, payload⟩).isOccupiedBy q d = false := by
        simpa [RxSlot.isOccupiedBy] using hqd
      rw [hqd2] at h1
      rw [hocc] at h2
      simp [RxSlot.isReserved] at h1 h2
      omega
  · obtain ⟨hn, hm⟩ := h.queue d
    rw [hqueues, hpool, look_alter]
    obtain rfl | hcd := eq_or_ne cls' d
    · rw [if_pos rfl]
      refine ⟨hn.erase i, fun j => ?_⟩
      rw [hn.mem_erase_iff, look_put]
      obtain rfl | hij := eq_or_ne i j
      · simp [hin]
      · simpa [hij, Ne.symm hij] using hm j
    · rw [if_neg hcd]
      refine ⟨hn, fun j => (hm j).trans ?_⟩
      rw [look_put]
      obtain rfl | hij := eq_or_ne i j
      · rw [if_pos rfl, hin, held]
        simp [RxSlot.isOccupiedIn, hcd]
      · simp [hij]
  · obtain ⟨hle, hopen, hclosed⟩ := h.grant q d
    have hg := grants d
    simp only [State.grant, record] at hle hopen hg ⊢
    rw [hrec, look2_put2, opens]
    by_cases hqd : src = q ∧ cls' = d
    · obtain ⟨rfl, rfl⟩ := hqd
      have hpos : 0 < (look2 s.rx.records src cls').occupied := by
        rw [(h.pool src cls').2]
        exact countIn_pos.mpr ⟨i, by simp [held, RxSlot.isOccupiedBy]⟩
      rw [if_pos ⟨rfl, rfl⟩]
      cases ho : s.isOpen src with
      | true =>
        obtain ⟨hsum, hdist⟩ := hopen ho
        simp only [if_true]
        refine ⟨by omega, fun _ => ⟨by omega, ?_⟩, fun hc => absurd hc (by simp)⟩
        rw [dist_add_one_right (by omega), hdist]
      | false =>
        simp only [Bool.false_eq_true, if_false]
        exact ⟨by omega, fun hc => absurd hc (by simp), fun _ => hclosed ho⟩
    · rw [if_neg hqd]
      exact ⟨hle, hopen, hclosed⟩

end Operations

end Sys2Proof.Machine

/-! PROOFS. Every move keeps the laws of the receive side, and so every step does (R29 to R36, R45, R51, R54, R162). -/

namespace Sys2Proof.Machine

section
variable {s t : State} {p : Station}

/-- The accounting of a state whose receive side keeps its laws. -/
theorem ReceiveLaws.accounts (h : ReceiveLaws s) : Accounts s :=
  ⟨h.2.2.2.1, h.2.2.2.2.1, h.2.2.2.2.2.1⟩

theorem ReceiveLaws.take (h : ReceiveLaws s) : TakeLaw s := h.2.2.2.2.2.2.1

theorem ReceiveLaws.grants_le (h : ReceiveLaws s) (configured : s.control.station ≠ .unconfigured) (c : Cls) :
    s.grant c ≤ 8 :=
  (valid_grants (receiveLaws_record h configured).2).1 c

/-- One entry and that peer's records may change, under a record in force, where the accounts are kept. -/
theorem receiveLaws_change (h : ReceiveLaws s) (accounts : Accounts t) {e : PeerEntry}
    (session : t.session = put s.session p e) (control : t.control.station = s.control.station)
    (config : t.control.config = s.control.config) (active : s.control.station = .active) (peer : s.own ≠ some p)
    (records : ∀ q c, q ≠ p → look2 t.rx.records q c = look2 s.rx.records q c) (take : TakeLaw t) : ReceiveLaws t := by
  have hstation : t.control.station = .active := control.trans active
  obtain ⟨-, ⟨hnone, hvalid⟩, hown, -⟩ := h
  refine ⟨fun hn => absurd hstation hn, ⟨by rw [config, control]; exact hnone, by rw [config]; exact hvalid⟩,
    fun q hq => ?_, accounts.pool, accounts.queue, accounts.grant, take, fun hu => ?_⟩
  · have hq : s.own = some q := by rwa [State.own, config] at hq
    have hqp : q ≠ p := fun e => peer (e ▸ hq)
    obtain ⟨hreset, hzero⟩ := hown q hq
    exact ⟨by rw [entry_of_put session, if_neg (Ne.symm hqp)]; exact hreset, fun c => (records q c hqp).trans (hzero c)⟩
  · exact absurd (hstation.symm.trans hu) (by decide)

/-- The records and slots may change where control and peer table stand, if the own position's records do not. -/
theorem receiveLaws_of_accounts (h : ReceiveLaws s) (accounts : Accounts t) (control : t.control = s.control)
    (session : t.session = s.session) (own : ∀ q ∈ s.own, ∀ c, look2 t.rx.records q c = look2 s.rx.records q c)
    (take : TakeLaw t) : ReceiveLaws t := by
  obtain ⟨hquiet, hconfig, hown, -, -, -, -, hblank⟩ := h
  have he := entry_of_same session
  refine ⟨fun hn q => ?_, by rw [ConfigLaw, control]; exact hconfig, fun q hq => ?_, accounts.pool, accounts.queue,
    accounts.grant, take, fun hu q => ?_⟩
  · rw [control] at hn
    rw [he]
    exact hquiet hn q
  · have hq : s.own = some q := by rwa [State.own, control] at hq
    obtain ⟨hreset, hzero⟩ := hown q hq
    exact ⟨by rw [he]; exact hreset, fun c => (own q hq c).trans (hzero c)⟩
  · rw [control] at hu
    rw [he]
    exact hblank hu q

/-- A close leaves its entry in no open state. -/
theorem closed_not_opened (e : PeerEntry) (reason : CloseReason) (ms : Nat) :
    (e.closed reason ms).state ≠ .opened := by
  cases reason with
  | severed => by_cases h : e.state = .opened <;> simp [PeerEntry.closed, closeDestination, h]
  | _ => simp [PeerEntry.closed, closeDestination]

/-- Which entries are OPEN where one is written. -/
theorem isOpen_of_put {e : PeerEntry} (session : t.session = put s.session p e) :
    t.isOpen p = decide (e.state = .opened) ∧ ∀ q, q ≠ p → t.isOpen q = s.isOpen q := by
  refine ⟨by simp only [State.isOpen, entry_put session], fun q hq => ?_⟩
  simp only [State.isOpen, entry_of_put session, if_neg (Ne.symm hq)]

theorem receiveLaws_closeSession (h : ReceiveLaws s) (reason : CloseReason) (live : (s.entry p).state ≠ .absent) :
    ReceiveLaws (s.closeSession reason p) := by
  obtain ⟨hpeer, hactive⟩ := receiveLaws_live h live
  have hopen := isOpen_of_put (closeSession_session s reason p)
  refine receiveLaws_change h (accounts_freePeer h.accounts rfl rfl ?_ hopen.2) rfl rfl rfl hactive hpeer
    (fun q c hq => ?_) (takeLaw_same h.take ?_ (noteChanged_command rfl))
  · rw [hopen.1]
    simpa using closed_not_opened (s.entry p) reason s.record.holdDownMs
  · rw [closeSession_rx, look2_freePeer_records, if_neg hq]
  · rfl

theorem receiveLaws_freshJoining (h : ReceiveLaws s) (tag : Tag) (notOpen : (s.entry p).state ≠ .opened)
    (active : s.control.station = .active) (peer : s.own ≠ some p) : ReceiveLaws (s.freshJoining p tag) := by
  have hput := freshJoining_session s p tag
  have hopen := isOpen_of_put hput
  refine receiveLaws_keep h Iff.rfl rfl rfl (fun q => ?_) (fun hn => absurd active hn) (fun q hq hr => ?_) h.take
  · obtain rfl | hqp := eq_or_ne q p
    · rw [hopen.1]
      simp [State.isOpen, PeerEntry.freshJoining, notOpen]
    · exact hopen.2 q hqp
  · have hqp : q ≠ p := by
      rintro rfl
      exact hq.elim peer fun hu => absurd (active.symm.trans hu) (by decide)
    rw [entry_of_put hput, if_neg (Ne.symm hqp)]
    exact hr

theorem receiveLaws_openSession (h : ReceiveLaws s) (joining : (s.entry p).state = .joining) :
    ReceiveLaws (s.openSession p) := by
  obtain ⟨hpeer, hactive⟩ := receiveLaws_live h (p := p) (by simp [joining])
  have hopen := isOpen_of_put (openSession_session s p)
  have hroom := receiveLaws_room h joining
  obtain ⟨hrec, -, -, -, -, hqueues⟩ := reserve_spec p s.record.grants s.rx hroom
  refine receiveLaws_change h (accounts_reserve h.accounts rfl rfl (h.grants_le (by simp [hactive]))
    (by simp [State.isOpen, joining]) hopen.1 hopen.2 hroom) rfl rfl rfl hactive hpeer (fun q c hq => ?_)
    (takeLaw_same h.take ?_ (noteChanged_command rfl))
  · rw [openSession_rx, hrec, if_neg hq]
  · rw [openSession_rx, hqueues]

/-- An acceptance keeps the head a TAKE shows: it puts its message behind it (R40, R51). -/
theorem receiveLaws_accept (h : ReceiveLaws s) {c : Cls} {payload : List Byte} (opened : (s.entry p).state = .opened)
    (reserved : 0 < (look2 s.rx.records p c).reserved) : ReceiveLaws { s with rx := s.rx.accept p c payload } := by
  obtain ⟨hpeer, hactive⟩ := receiveLaws_live h (p := p) (by simp [opened])
  have hslot : ∃ i, look s.rx.pool i = .reserved p c := by
    obtain ⟨i, hi⟩ := countIn_pos.mp ((h.accounts.pool p c).1 ▸ reserved)
    exact ⟨i, by simpa [RxSlot.isReserved] using hi⟩
  obtain ⟨i, hfind, -⟩ := findIx_reserved hslot
  refine receiveLaws_of_accounts h
    (accounts_accept h.accounts (by simp [State.isOpen, opened]) reserved rfl rfl fun _ => rfl) rfl rfl
    (fun q hq d => ?_) fun d j hc => ?_
  · have hqp : ¬(p = q ∧ c = d) := fun hp => hpeer (hp.1 ▸ hq)
    simp only [ReceiveUnit.accept, hfind, look2_put2, if_neg hqp]
  · have hhead := h.take d j hc
    simp only [ReceiveUnit.accept, hfind, look_alter]
    obtain rfl | hcd := eq_or_ne c d
    · rw [if_pos rfl, List.head?_append, hhead]
      rfl
    · rw [if_neg hcd]
      exact hhead

theorem setCommand_command (s : State) (c : TxnCommand) : (s.setCommand c).command = s.command.map fun _ => c := by
  simp only [State.command, setCommand_port, HostPort.onCommand, Option.map_map]
  rfl

/-- A TAKE's completion: the head it shows leaves its queue and its slot is released (R60, R45). -/
theorem receiveLaws_release (h : ReceiveLaws s) {c : Cls} {i : RxIx} (command : s.command = some (.take c i false)) :
    ReceiveLaws (((s.dequeue c i).releaseSlot i).setCommand (.take c i true)) := by
  have hin : (look s.rx.pool i).isOccupiedIn c = true :=
    ((h.accounts.queue c).2 i).mp (List.mem_of_head? (h.take c i command))
  obtain ⟨m, hm, hcls⟩ : ∃ m, look s.rx.pool i = .occupied m ∧ m.cls = c := by
    cases hx : look s.rx.pool i with
    | occupied m => exact ⟨m, rfl, by simpa [hx, RxSlot.isOccupiedIn] using hin⟩
    | _ => simp [hx, RxSlot.isOccupiedIn] at hin
  have hmessage : (s.dequeue c i).rx.message i = some m := by simp [ReceiveUnit.message, hm]
  have hsource : (look2 s.rx.records m.source c).occupied ≠ 0 := by
    rw [(h.accounts.pool m.source c).2]
    exact (countIn_pos.mpr ⟨i, by simp [hm, RxSlot.isOccupiedBy, hcls]⟩).ne'
  obtain ⟨hcontrol, hsession, -⟩ := releaseSlot_spec (s.dequeue c i) i
  have hrx : ((s.dequeue c i).releaseSlot i).rx =
      ({ s.rx with queues := alter s.rx.queues c (·.erase i) } : ReceiveUnit).release i m (s.isOpen m.source) := by
    simp only [State.releaseSlot, hmessage]
    split <;> rfl
  have hconfigured : s.control.station ≠ .unconfigured := by
    intro hu
    have hzero : s.grant c = 0 := by
      have hnone := h.2.1.1.mpr hu
      simp only [State.grant, State.record, hnone, Option.getD_none, ConfigRecord.blank]
      exact look_replicate _ _
    have := (h.accounts.grant m.source c).1
    omega
  have hgrants := h.grants_le hconfigured
  have hopen (q : Station) : (((s.dequeue c i).releaseSlot i).setCommand (.take c i true)).isOpen q = s.isOpen q := by
    simp only [State.isOpen, entry_of_same (s := s) (t := ((s.dequeue c i).releaseSlot i).setCommand _) hsession]
  refine receiveLaws_of_accounts h (accounts_release h.accounts hgrants hm hcls hrx
    (record_of_same (congrArg _ hcontrol)) hopen) hcontrol hsession (fun q hq d => ?_) fun d j hc => ?_
  · have hzero : look2 s.rx.records q c = .zero := (h.2.2.1 q hq).2 c
    have hne : ¬(m.source = q ∧ m.cls = d) := fun hp => hsource (by rw [hp.1, hzero]; rfl)
    rw [setCommand_rx, hrx]
    simp only [ReceiveUnit.release]
    split <;> simp only [look2_put2, if_neg hne]
  · rw [setCommand_command] at hc
    obtain ⟨-, -, hx⟩ := Option.map_eq_some_iff.mp hc
    simp at hx

/-- No slot OCCUPIED: every record of a peer that is not OPEN is zero (R33, R34). -/
theorem records_zero (h : Accounts s) (empty : ∀ p c, (look2 s.rx.records p c).occupied = 0)
    (closed : ∀ p, s.isOpen p = false) (p : Station) (c : Cls) : look2 s.rx.records p c = .zero := by
  obtain ⟨ha, hl, hr⟩ := (h.grant p c).2.2 (closed p)
  have ho := empty p c
  cases hrec : look2 s.rx.records p c
  simp only [hrec] at ha hl hr ho
  simp only [ha, hl, hr, ho]
  rfl

/-- A CONFIGURE replaces the record where no message is unread and no entry open (R154, R34). -/
theorem receiveLaws_config (h : ReceiveLaws s) {image : ConfigImage} {r : ConfigRecord} (valid : validRecord image = some r)
    (station : s.control.station = .unconfigured ∨ s.control.station = .configured ∧ s.rx.anyOccupied = false) :
    ReceiveLaws (s.applyConfig r) := by
  have habsent : ∀ p, (s.entry p).state = .absent := h.1 (by obtain hs | ⟨hs, -⟩ := station <;> simp [hs])
  have hempty (p : Station) (c : Cls) : (look2 s.rx.records p c).occupied = 0 := by
    obtain hs | ⟨-, hs⟩ := station
    · have hzero : s.grant c = 0 := by
        simp only [State.grant, State.record, h.2.1.1.mpr hs, Option.getD_none, ConfigRecord.blank]
        exact look_replicate _ _
      have := (h.accounts.grant p c).1
      omega
    · rw [(h.accounts.pool p c).2]
      by_contra hpos
      obtain ⟨i, hi⟩ := countIn_pos.mp (Nat.pos_of_ne_zero hpos)
      have hx : look s.rx.pool i ∈ s.rx.pool.toList := by simp [look]
      have hno := List.any_eq_false.mp hs _ hx
      cases hslot : look s.rx.pool i <;> simp [hslot, RxSlot.isOccupiedBy, RxSlot.isOccupied] at hi hno
  have hzero := records_zero h.accounts hempty fun p => by simp [State.isOpen, habsent p]
  have hreset : ∀ p, s.entry p = .reset → (s.applyConfig r).entry p = .reset := by
    intro p hp
    simp only [State.entry, applyConfig_session]
    split
    · rw [look_put]
      split
      next => rfl
      next => exact hp
    · exact hp
  have habsent' : ∀ p, ((s.applyConfig r).entry p).state = .absent := by
    intro p
    simp only [State.entry, applyConfig_session]
    split
    · rw [look_put]
      split
      next => rfl
      next => exact habsent p
    · exact habsent p
  have hopen (p : Station) : (s.applyConfig r).isOpen p = false := by simp [State.isOpen, habsent' p]
  refine ⟨fun _ => habsent', ?_, fun p hp => ⟨?_, hzero p⟩, h.accounts.pool, h.accounts.queue, fun p c => ?_, h.take,
    fun hu => ?_⟩
  · have hvalid : r.valid = true := (Option.filter_eq_some_iff.mp valid).2
    exact ⟨by simp, by simpa using hvalid⟩
  · have hp : r.ownStation = p := by simpa [State.own] using hp
    subst hp
    simp only [State.entry, applyConfig_session]
    split
    next => exact look_put_self _ _ _
    next hsame =>
      rw [not_and_or, not_not, not_not] at hsame
      obtain hnone | hsome := hsame
      · exact h.2.2.2.2.2.2.2 (h.2.1.1.mp (by simpa [State.own] using hnone)) _
      · exact (h.2.2.1 _ hsome).1
  · rw [applyConfig_rx, hzero p c, hopen p]
    exact ⟨Nat.zero_le _, fun ho => absurd ho (by decide), fun _ => ⟨rfl, rfl, rfl⟩⟩
  · exact absurd hu (by simp)

/-- Every move keeps the laws of the receive side. -/
theorem receiveLaws_move (s t : State) (h : ReceiveLaws s) (move : Move s t) : ReceiveLaws t := by
  have keep {t : State} (control : t.control = s.control) (session : t.session = s.session) (rx : t.rx = s.rx)
      (port : t.port = s.port) : ReceiveLaws t :=
    receiveLaws_untouched h control session rx fun c i hc => by rwa [State.command, port] at hc
  have moved {t : State} (station : t.control.station = .unconfigured ↔ s.control.station = .unconfigured)
      (config : t.control.config = s.control.config) (session : t.session = s.session) (rx : t.rx = s.rx)
      (port : t.port = s.port) (absent : t.control.station ≠ .active → ∀ p, (s.entry p).state = .absent) :
      ReceiveLaws t := by
    have he := entry_of_same session
    exact receiveLaws_keep h station config rx (fun p => by simp only [State.isOpen, he])
      (fun hn p => by rw [he]; exact absent hn p) (fun p _ hr => by rw [he]; exact hr)
      (takeLaw_same h.take (by rw [rx]) fun c i hc => by rwa [State.command, port] at hc)
  have quiet (hs : s.control.station ≠ .active) (p : Station) : (s.entry p).state = .absent := h.1 hs p
  cases move with
  | @port p may _ =>
    refine receiveLaws_keep h Iff.rfl rfl rfl (fun _ => rfl) h.1 (fun _ _ hr => hr) fun c i hc => ?_
    obtain ⟨x, hx, hcmd⟩ := Option.map_eq_some_iff.mp hc
    obtain ⟨hfits | ⟨y, hy, hxy⟩, -⟩ := may x hx
    · exact hfits.take c i hcmd
    · exact h.take c i (Option.map_eq_some_iff.mpr ⟨y, hy, by rw [← hxy, hcmd]⟩)
  | control station config _ =>
    exact receiveLaws_keep h (by rw [station]) config rfl (fun _ => rfl) (fun hn => h.1 (by rwa [station] at hn))
      (fun _ _ hr => hr) h.take
  | @entry p f may =>
    have hput : (s.setEntry p f).session = put s.session p f := rfl
    have he (q : Station) : ((s.setEntry p f).entry q).state = (s.entry q).state := by
      rw [entry_of_put hput]
      split
      next hq => rw [may.state, hq]
      next => rfl
    refine receiveLaws_keep h Iff.rfl rfl rfl (fun q => by simp only [State.isOpen, he]) (fun hn q => ?_)
      (fun q _ hr => ?_) h.take
    · rw [he]; exact h.1 hn q
    · rw [entry_of_put hput]
      split
      next hq => exact may.reset (hq ▸ hr)
      next => exact hr
  | arb _ => exact keep rfl rfl rfl rfl
  | line => exact keep rfl rfl rfl rfl
  | errors _ => exact keep rfl rfl rfl rfl
  | tx _ => exact keep rfl rfl rfl rfl
  | @freshJoining p tag notOpen may =>
    have hmay : s.control.station = .active ∧ s.own ≠ some p :=
      may.elim id fun hl => (receiveLaws_live h (p := p) (by simp [hl])).symm
    exact receiveLaws_freshJoining h tag notOpen hmay.1 hmay.2
  | openSession joining _ _ => exact receiveLaws_openSession h joining
  | closeSession live _ _ => exact receiveLaws_closeSession h _ live
  | @restart p tag opened _ =>
    have hlive : (s.entry p).state ≠ .absent := by simp [opened]
    obtain ⟨hpeer, hactive⟩ := receiveLaws_live h hlive
    refine receiveLaws_freshJoining (receiveLaws_closeSession h .restart hlive) tag ?_ hactive hpeer
    rw [entry_put (closeSession_session s .restart p)]
    exact closed_not_opened _ _ _
  | accept opened reserved => exact receiveLaws_accept h opened reserved
  | release command => exact receiveLaws_release h command
  | pop _ =>
    refine receiveLaws_untouched h rfl rfl rfl fun c i hc => ?_
    rw [setCommand_command] at hc
    obtain ⟨-, -, hx⟩ := Option.map_eq_some_iff.mp hc
    simp at hx
  | config valid station => exact receiveLaws_config h valid station
  | start configured =>
    exact moved (by simp [configured]) rfl rfl rfl rfl fun hn => absurd rfl hn
  | leave absent active =>
    exact moved (by simp [active]) rfl rfl rfl rfl fun _ => absent
  | drained leaving _ =>
    have hcontrol : (s.setStation .configured).goSilent.idleEnded.control = { s.control with station := .configured } :=
      goSilent_control _
    have hsession : (s.setStation .configured).goSilent.idleEnded.session = s.session := goSilent_session _
    have hrx : (s.setStation .configured).goSilent.idleEnded.rx = s.rx := goSilent_rx _
    have hport : (s.setStation .configured).goSilent.idleEnded.port = s.port := goSilent_port _
    exact moved (by rw [hcontrol]; simp [leaving]) (by rw [hcontrol]) hsession hrx hport
      fun _ => quiet (by simp [leaving])
  | @mute n absent _ running =>
    have hcontrol := goSilent_control
      { s.setStation .muted with arb := s.arb.mute, line := { s.line with aborts := n } }
    refine moved ?_ (by rw [hcontrol]; rfl) (goSilent_session _) (goSilent_rx _) (goSilent_port _) fun _ => absent
    rw [hcontrol]
    obtain hs | hs := running <;> simp [hs]
  | build _ _ => exact keep rfl rfl rfl rfl
  | lose _ => exact keep rfl rfl rfl rfl
  | won _ _ => exact keep rfl rfl rfl rfl
  | completed transmitting =>
    rw [frameCompletedEffect_transmitting transmitting]
    exact keep rfl rfl rfl rfl
  | aborted _ => exact keep rfl rfl rfl rfl
  | marked _ _ => exact keep rfl rfl rfl rfl
  | draw => exact keep rfl rfl rfl rfl
  | countDown =>
    have he (p : Station) : s.countDown.entry p = (s.entry p).tick := by simp [State.entry]
    refine receiveLaws_keep h Iff.rfl rfl rfl (fun p => ?_) (fun hn p => ?_) (fun p _ hr => ?_) h.take
    · simp only [State.isOpen, he]; rfl
    · rw [he]; exact h.1 hn p
    · rw [he, hr]; rfl

/-- The laws of the receive side hold after a reset (R3, R53, R162). -/
theorem receiveLaws_afterReset (s : State) (rst cs : PinLevel) : ReceiveLaws (s.afterReset rst cs) := by
  have he (p : Station) : (s.afterReset rst cs).entry p = .reset := look_replicate _ _
  have hrec (p : Station) (c : Cls) : look2 (s.afterReset rst cs).rx.records p c = .zero := look2_replicate _ _ _
  have hslot (i : RxIx) : look (s.afterReset rst cs).rx.pool i = .free := look_replicate _ _
  have hcount (f : RxSlot → Bool) (hf : f .free = false) : countIn f (s.afterReset rst cs).rx.pool = 0 := by
    by_contra hpos
    obtain ⟨i, hi⟩ := countIn_pos.mp (Nat.pos_of_ne_zero hpos)
    rw [hslot, hf] at hi
    exact Bool.false_ne_true hi
  refine ⟨fun _ p => by rw [he]; rfl, ⟨by simp [StationControl.reset], by simp [StationControl.reset]⟩,
    fun p hp => absurd hp (by simp [State.own, StationControl.reset]), fun p c => ?_, fun c => ?_, fun p c => ?_,
    fun c i hc => absurd hc (by simp [State.command, HostPort.reset]), fun _ => he⟩
  · rw [hrec, hcount _ rfl, hcount _ rfl]
    exact ⟨rfl, rfl⟩
  · have hq : look (s.afterReset rst cs).rx.queues c = [] := look_replicate _ _
    rw [hq]
    exact ⟨List.nodup_nil, fun i => by rw [hslot]; simp [RxSlot.isOccupiedIn]⟩
  · rw [hrec]
    refine ⟨Nat.zero_le _, fun ho => absurd ho ?_, fun _ => ⟨rfl, rfl, rfl⟩⟩
    simp [State.isOpen, he, PeerEntry.reset]

end

/-- Settles O56: each move that reserves, accepts, releases or frees a slot moves the records, the queues and the grants
with it; and an open finds its FREE slots, since fifteen peers hold no more than the sum of the grants each. -/
theorem receiveLawsKept : Obligations.ReceiveLawsKept :=
  ⟨fun _ _ hs hstep => kept_by_step receiveLaws_move (fun _ _ h => h) receiveLaws_afterReset hs hstep,
    fun _ _ hs joining => receiveLaws_room hs joining⟩

end Sys2Proof.Machine

/-! PROOFS. The send side's accounting as a law of the Transmit Unit alone: where a slot stands, what its record holds,
and how the counters number what is in flight (R68, R69, R73, R77, R86, R88, R101). -/

namespace Sys2Proof.Machine

/-! ## The counters of one peer and class (R86, R88) -/

/-- The seqs from acked up to S. -/
def SendCounters.run (k : SendCounters) : List (Option Count) :=
  (List.range (dist k.acked k.next)).map fun n => some (k.acked + BitVec.ofNat 8 n)

/-- R88: S lies within the limit, the limit within 8 of acked, and a resend point among the seqs in flight. -/
structure SendCounters.InRange (k : SendCounters) : Prop where
  credit : dist k.acked k.next ≤ dist k.acked k.limit
  grant : dist k.acked k.limit ≤ 8
  resend : ∀ q ∈ k.resend, dist k.acked q < dist k.acked k.next

section Counters
variable {k : SendCounters}

theorem inRange_zero : SendCounters.zero.InRange := by
  constructor <;> decide

/-- A seq of the run lies before S. -/
theorem dist_lt_of_mem_run {q : Count} (h : some q ∈ k.run) : dist k.acked q < dist k.acked k.next := by
  obtain ⟨n, hn, hq⟩ := List.mem_map.mp h
  have hn := List.mem_range.mp hn
  obtain rfl := Option.some.inj hq
  simp only [dist] at hn ⊢
  bv_omega

theorem run_next (credit : 0 < dist k.next k.limit) (h : k.InRange) :
    ({ k with next := k.next + 1 } : SendCounters).run = k.run ++ [some k.next] ∧
      ({ k with next := k.next + 1 } : SendCounters).InRange := by
  obtain ⟨hc, hg, hr⟩ := h
  have hstep : dist k.acked (k.next + 1) = dist k.acked k.next + 1 := by
    simp only [dist] at *
    bv_omega
  have hlast : k.acked + BitVec.ofNat 8 (dist k.acked k.next) = k.next := by
    simp only [dist]
    bv_omega
  refine ⟨?_, ?_, hg, fun q hq => ?_⟩
  · simp only [SendCounters.run, hstep, List.range_succ, List.map_append, List.map_cons, List.map_nil, hlast]
  · simp only [hstep]
    simp only [dist] at *
    bv_omega
  · have := hr q hq
    simp only [hstep]
    omega

theorem inRange_afterResendWon (h : k.InRange) (q : Count) :
    (k.afterResendWon q).run = k.run ∧ (k.afterResendWon q).InRange := by
  unfold SendCounters.afterResendWon
  split
  next hq =>
    refine ⟨rfl, h.credit, h.grant, fun r hr => ?_⟩
    have hlt := h.resend q hq
    simp only [Option.mem_def] at hr ⊢
    split at hr
    next => simp at hr
    next hnext =>
      obtain rfl := Option.some.inj hr
      simp only [dist] at *
      bv_omega
  next => exact ⟨rfl, h⟩

theorem inRange_resend (h : k.InRange) {q : Count} (hq : dist k.acked q < dist k.acked k.next) :
    ({ k with resend := some q } : SendCounters).InRange := by
  refine ⟨h.credit, h.grant, fun r hr => ?_⟩
  obtain rfl : q = r := by simpa using hr
  exact hq

theorem inRange_afterAbort (h : k.InRange) {q : Count} (hq : dist k.acked q < dist k.acked k.next) :
    (k.afterAbort q).run = k.run ∧ (k.afterAbort q).InRange := by
  unfold SendCounters.afterAbort
  split
  · exact ⟨rfl, inRange_resend h hq⟩
  · split
    · exact ⟨rfl, inRange_resend h hq⟩
    · exact ⟨rfl, h⟩

/-- What an acknowledgment up to `accepted` leaves of the run. -/
theorem run_filter {t : TallyPair} (admits : k.admits t = true) (empty : Bool) :
    k.run.filter (fun o => !o.any fun q => dist k.acked q < dist k.acked t.accepted) = (k.afterTally t empty).run := by
  simp only [SendCounters.admits, decide_eq_true_eq] at admits
  obtain ⟨hle, -, -⟩ := admits
  have hsplit : dist k.acked k.next = dist k.acked t.accepted + dist t.accepted k.next := by
    simp only [dist] at *
    bv_omega
  have hlt : dist k.acked k.next < 256 := (k.next - k.acked).isLt
  have hd (n : Nat) (hn : n < 256) : dist k.acked (k.acked + BitVec.ofNat 8 n) = n := by
    simp only [dist]
    bv_omega
  have hshift (n : Nat) : k.acked + BitVec.ofNat 8 (dist k.acked t.accepted + n) = t.accepted + BitVec.ofNat 8 n := by
    simp only [dist]
    bv_omega
  simp only [SendCounters.run, SendCounters.afterTally, hsplit, List.range_add, List.map_append, List.filter_append]
  have hfirst : ((List.range (dist k.acked t.accepted)).map fun n => some (k.acked + BitVec.ofNat 8 n)).filter
      (fun o => !o.any fun q => dist k.acked q < dist k.acked t.accepted) = [] := by
    refine List.filter_eq_nil_iff.mpr fun o ho => ?_
    obtain ⟨n, hn, rfl⟩ := List.mem_map.mp ho
    have hn := List.mem_range.mp hn
    simp [hd n (by omega), hn]
  rw [hfirst, List.nil_append, List.map_map]
  have hmap : (List.range (dist t.accepted k.next)).map
        ((fun n => some (k.acked + BitVec.ofNat 8 n)) ∘ fun x => dist k.acked t.accepted + x) =
      (List.range (dist t.accepted k.next)).map fun n => some (t.accepted + BitVec.ofNat 8 n) :=
    List.map_congr_left fun n _ => congrArg some (hshift n)
  rw [hmap]
  refine List.filter_eq_self.mpr fun o ho => ?_
  obtain ⟨n, hn, rfl⟩ := List.mem_map.mp ho
  have hn := List.mem_range.mp hn
  simp only [Option.any_some, ← hshift, hd _ (show dist k.acked t.accepted + n < 256 by omega)]
  simp

/-- A valid TALLY's pair leaves the counters in range (R96, R98). -/
theorem inRange_afterTally {t : TallyPair} (h : k.InRange) (admits : k.admits t = true) {empty : Bool}
    (hempty : empty = false → 0 < dist t.accepted k.next) : (k.afterTally t empty).InRange := by
  simp only [SendCounters.admits, decide_eq_true_eq, Config.maxGrant] at admits
  obtain ⟨hle, hc, hg⟩ := admits
  refine ⟨hc, hg, fun q hq => ?_⟩
  cases empty with
  | true => simp [SendCounters.afterTally] at hq
  | false =>
    have hpos := hempty rfl
    simp only [SendCounters.afterTally, Bool.false_eq_true, if_false] at hq
    obtain ⟨r, hr, rfl⟩ := Option.mem_map.mp hq
    have hlt := h.resend r hr
    simp only [SendCounters.afterTally]
    split
    · simp only [dist] at *
      bv_omega
    · simp only [dist] at *
      bv_omega

end Counters

/-! ## The law of the unit -/

/-- The seq slot `i` carries in flight. -/
def TransmitUnit.seqOf (tx : TransmitUnit) (i : TxIx) : Option Count :=
  (tx.slot i).bind fun r =>
    match r.state with
    | .inFlight q => some q
    | _ => none

/-- R68, R73, R77: slot `i` stands where its state says, and nowhere else. -/
structure TransmitUnit.Stands (tx : TransmitUnit) (i : TxIx) : Prop where
  queued : ∀ (p : Station) (c : Cls), i ∈ look2 tx.queues p c ↔ (look tx.pool i).isQueuedFor p c = true
  inFlight : ∀ (p : Station) (c : Cls), i ∈ look2 tx.flights p c ↔ (look tx.pool i).isInFlightTo p c = true
  sending : tx.sending = some i ↔ (look tx.pool i).isSending = true
  done : i ∈ tx.completions ↔ (look tx.pool i).isDone = true

/-- No slot stands twice in one list. -/
structure TransmitUnit.Distinct (tx : TransmitUnit) : Prop where
  queues : ∀ (p : Station) (c : Cls), (look2 tx.queues p c).Nodup
  flights : ∀ (p : Station) (c : Cls), (look2 tx.flights p c).Nodup
  completions : tx.completions.Nodup

/-- R86, R88, R106 for one peer and class: the counters number what is in flight, and stand at zero unless `opened`. -/
structure TransmitUnit.Numbers (tx : TransmitUnit) (opened : Bool) (p : Station) (c : Cls) : Prop where
  seqs : (look2 tx.flights p c).map tx.seqOf = (look2 tx.counters p c).run
  inRange : (look2 tx.counters p c).InRange
  closed : opened = false → look2 tx.counters p c = .zero

/-- The send side's accounting, with the peers that are OPEN. -/
structure TransmitUnit.Lawful (tx : TransmitUnit) (opened : Station → Bool) : Prop where
  distinct : tx.Distinct
  stands : ∀ i, tx.Stands i
  numbers : ∀ p c, tx.Numbers (opened p) p c
  records : ∀ i, (look tx.pool i).isLawful = true
  timers : ∀ p, (look tx.ackTimers p).isRunning = true → ∃ c, look2 tx.flights p c ≠ []

/-- The laws of the model, said of the unit. -/
theorem lawful_iff (s : State) :
    s.tx.Lawful s.isOpen ↔ SlotLaw s ∧ SendLaw s ∧ RecordLaw s ∧ AckTimerLaw s := by
  constructor
  · rintro ⟨⟨hq, hf, hd⟩, hstands, hnum, hrec, htim⟩
    exact ⟨⟨fun p c => ⟨hq p c, fun i => (hstands i).queued p c, hf p c, fun i => (hstands i).inFlight p c⟩,
      fun i => (hstands i).sending, hd, fun i => (hstands i).done⟩,
      fun p c => ⟨(hnum p c).seqs, (hnum p c).inRange.credit, (hnum p c).inRange.grant, (hnum p c).inRange.resend,
        (hnum p c).closed⟩, hrec, htim⟩
  · rintro ⟨⟨hlists, hs, hd, hdone⟩, hsend, hrec, htim⟩
    refine ⟨⟨fun p c => (hlists p c).1, fun p c => (hlists p c).2.2.1, hd⟩,
      fun i => ⟨fun p c => (hlists p c).2.1 i, fun p c => (hlists p c).2.2.2 i, hs i, hdone i⟩, fun p c => ?_, hrec, htim⟩
    obtain ⟨h1, h2, h3, h4, h5⟩ := hsend p c
    exact ⟨h1, ⟨h2, h3, h4⟩, h5⟩

/-! ## Where a slot stands, by its state -/

section Stands
variable {tx : TransmitUnit} {i : TxIx} {r : TxRecord}

theorem stands_iff :
    tx.Stands i ↔ (∀ p c, i ∈ look2 tx.queues p c ↔ (look tx.pool i).isQueuedFor p c = true) ∧
      (∀ p c, i ∈ look2 tx.flights p c ↔ (look tx.pool i).isInFlightTo p c = true) ∧
      (tx.sending = some i ↔ (look tx.pool i).isSending = true) ∧
      (i ∈ tx.completions ↔ (look tx.pool i).isDone = true) :=
  ⟨fun ⟨h1, h2, h3, h4⟩ => ⟨h1, h2, h3, h4⟩, fun ⟨h1, h2, h3, h4⟩ => ⟨h1, h2, h3, h4⟩⟩

theorem stands_free (h : look tx.pool i = .free) :
    tx.Stands i ↔ (∀ p c, i ∉ look2 tx.queues p c) ∧ (∀ p c, i ∉ look2 tx.flights p c) ∧ tx.sending ≠ some i ∧
      i ∉ tx.completions := by
  simp [stands_iff, h, TxSlot.isQueuedFor, TxSlot.isInFlightTo, TxSlot.isSending, TxSlot.isDone]

theorem stands_queued (h : look tx.pool i = .held r) (hr : r.state = .queued) :
    tx.Stands i ↔ (∀ p c, i ∈ look2 tx.queues p c ↔ r.destination = p ∧ r.cls = c) ∧
      (∀ p c, i ∉ look2 tx.flights p c) ∧ tx.sending ≠ some i ∧ i ∉ tx.completions := by
  simp [stands_iff, h, TxSlot.isQueuedFor, TxSlot.isInFlightTo, TxSlot.isSending, TxSlot.isDone, hr]

theorem stands_sending (h : look tx.pool i = .held r) (hr : r.state = .sending) :
    tx.Stands i ↔ (∀ p c, i ∉ look2 tx.queues p c) ∧ (∀ p c, i ∉ look2 tx.flights p c) ∧ tx.sending = some i ∧
      i ∉ tx.completions := by
  simp [stands_iff, h, TxSlot.isQueuedFor, TxSlot.isInFlightTo, TxSlot.isSending, TxSlot.isDone, hr]

theorem stands_inFlight {q : Count} (h : look tx.pool i = .held r) (hr : r.state = .inFlight q) :
    tx.Stands i ↔ (∀ p c, i ∉ look2 tx.queues p c) ∧
      (∀ p c, i ∈ look2 tx.flights p c ↔ r.destination = p ∧ r.cls = c) ∧ tx.sending ≠ some i ∧ i ∉ tx.completions := by
  simp [stands_iff, h, TxSlot.isQueuedFor, TxSlot.isInFlightTo, TxSlot.isSending, TxSlot.isDone, hr]

theorem stands_done {status : CompletionStatus} {reason : CloseReason} (h : look tx.pool i = .held r)
    (hr : r.state = .done status reason) :
    tx.Stands i ↔ (∀ p c, i ∉ look2 tx.queues p c) ∧ (∀ p c, i ∉ look2 tx.flights p c) ∧ tx.sending ≠ some i ∧
      i ∈ tx.completions := by
  simp [stands_iff, h, TxSlot.isQueuedFor, TxSlot.isInFlightTo, TxSlot.isSending, TxSlot.isDone, hr]

/-- A slot that neither changes nor moves stands as before. -/
theorem Stands.keep {u : TransmitUnit} (h : tx.Stands i) (slot : look u.pool i = look tx.pool i)
    (queues : ∀ p c, i ∈ look2 u.queues p c ↔ i ∈ look2 tx.queues p c)
    (flights : ∀ p c, i ∈ look2 u.flights p c ↔ i ∈ look2 tx.flights p c)
    (sending : u.sending = some i ↔ tx.sending = some i) (completions : i ∈ u.completions ↔ i ∈ tx.completions) :
    u.Stands i := by
  refine ⟨fun p c => ?_, fun p c => ?_, ?_, ?_⟩ <;> rw [slot]
  · exact (queues p c).trans (h.queued p c)
  · exact (flights p c).trans (h.inFlight p c)
  · exact sending.trans h.sending
  · exact completions.trans h.done

/-- The slot of a queue is QUEUED for that peer and class. -/
theorem queued_of_mem {p : Station} {c : Cls} (h : tx.Stands i) (hi : i ∈ look2 tx.queues p c) :
    ∃ r, look tx.pool i = .held r ∧ r.destination = p ∧ r.cls = c ∧ r.state = .queued := by
  have := (h.queued p c).mp hi
  cases hx : look tx.pool i with
  | free => simp [hx, TxSlot.isQueuedFor] at this
  | held r => exact ⟨r, rfl, by simpa [hx, TxSlot.isQueuedFor, and_assoc] using this⟩

/-- The slot of an in-flight list is IN_FLIGHT to that peer and class. -/
theorem inFlight_of_mem {p : Station} {c : Cls} (h : tx.Stands i) (hi : i ∈ look2 tx.flights p c) :
    ∃ r q, look tx.pool i = .held r ∧ r.destination = p ∧ r.cls = c ∧ r.state = .inFlight q := by
  have := (h.inFlight p c).mp hi
  cases hx : look tx.pool i with
  | free => simp [hx, TxSlot.isInFlightTo] at this
  | held r =>
    simp only [hx, TxSlot.isInFlightTo, Bool.and_eq_true, decide_eq_true_eq] at this
    obtain ⟨⟨hp, hc⟩, hs⟩ := this
    cases hst : r.state with
    | inFlight q => exact ⟨r, q, rfl, hp, hc, hst⟩
    | _ => simp [hst] at hs

/-- The sending slot is SENDING. -/
theorem sending_of_eq (h : tx.Stands i) (hi : tx.sending = some i) :
    ∃ r, look tx.pool i = .held r ∧ r.state = .sending := by
  have := h.sending.mp hi
  cases hx : look tx.pool i with
  | free => simp [hx, TxSlot.isSending] at this
  | held r => exact ⟨r, rfl, by simpa [hx, TxSlot.isSending] using this⟩

/-- A slot of the completion queue is DONE. -/
theorem done_of_mem (h : tx.Stands i) (hi : i ∈ tx.completions) :
    ∃ r status reason, look tx.pool i = .held r ∧ r.state = .done status reason := by
  have := h.done.mp hi
  cases hx : look tx.pool i with
  | free => simp [hx, TxSlot.isDone] at this
  | held r =>
    simp only [hx, TxSlot.isDone] at this
    cases hst : r.state with
    | done status reason => exact ⟨r, status, reason, rfl, hst⟩
    | _ => simp [hst] at this

theorem seqOf_held (h : look tx.pool i = .held r) :
    tx.seqOf i = match r.state with
      | .inFlight q => some q
      | _ => none := by
  simp [TransmitUnit.seqOf, TransmitUnit.slot, h]

theorem seqOf_congr {u : TransmitUnit} (h : look u.pool i = look tx.pool i) : u.seqOf i = tx.seqOf i := by
  simp [TransmitUnit.seqOf, TransmitUnit.slot, h]

theorem carries_iff {q : Count} : tx.carries q i = true ↔ ∃ r, look tx.pool i = .held r ∧ r.state = .inFlight q := by
  simp only [TransmitUnit.carries, TransmitUnit.slot]
  cases look tx.pool i <;> simp

theorem isFor_iff {p : Station} {c : Cls} :
    tx.isFor p c i = true ↔ ∃ r, look tx.pool i = .held r ∧ r.destination = p ∧ r.cls = c := by
  simp only [TransmitUnit.isFor, TransmitUnit.slot]
  cases look tx.pool i <;> simp

end Stands

/-- A numbering stands where list, counters and the slots in flight do. -/
theorem Numbers.keep {tx u : TransmitUnit} {o o' : Bool} {p : Station} {c : Cls} (h : tx.Numbers o p c)
    (flights : look2 u.flights p c = look2 tx.flights p c) (counters : look2 u.counters p c = look2 tx.counters p c)
    (slots : ∀ i ∈ look2 tx.flights p c, u.seqOf i = tx.seqOf i) (opened : o' = false → o = false) :
    u.Numbers o' p c := by
  refine ⟨?_, by rw [counters]; exact h.inRange, fun hc => by rw [counters]; exact h.closed (opened hc)⟩
  rw [flights, counters, List.map_congr_left slots]
  exact h.seqs

/-- The seq a slot carries in flight to its peer lies from acked up to S. -/
theorem carried_before_next {tx : TransmitUnit} {o : Station → Bool} (h : tx.Lawful o) {p : Station} {c : Cls} {i : TxIx}
    {q : Count} (hfor : tx.isFor p c i = true) (carries : tx.carries q i = true) :
    i ∈ look2 tx.flights p c ∧
      dist (look2 tx.counters p c).acked q < dist (look2 tx.counters p c).acked (look2 tx.counters p c).next := by
  obtain ⟨r, hr, hp, hc⟩ := isFor_iff.mp hfor
  obtain ⟨r', hr', hq⟩ := carries_iff.mp carries
  obtain rfl : r = r' := by simpa [hr] using hr'
  have hmem : i ∈ look2 tx.flights p c := (((stands_inFlight hr hq).mp (h.stands i)).2.1 p c).mpr ⟨hp, hc⟩
  refine ⟨hmem, dist_lt_of_mem_run ?_⟩
  rw [← (h.numbers p c).seqs]
  exact List.mem_map.mpr ⟨i, hmem, by rw [seqOf_held hr, hq]⟩

end Sys2Proof.Machine

/-! PROOFS. Each operation of the Transmit Unit keeps the send side's accounting: a slot enters and leaves a queue, is sent,
acknowledged, resent, dropped and read (R71, R74, R75, R80, R91 to R94, R98, R102, R105 to R107). -/

namespace Sys2Proof.Machine

/-- An expiry below the retry limit writes resend points and the retry count alone (R102). -/
theorem retry_field {α : Type} (f : TransmitUnit → α) (hf : ∀ tx r k, f { tx with retries := r, counters := k } = f tx)
    (tx : TransmitUnit) (p : Station) : f (tx.retry p) = f tx := by
  rw [(retry_spec tx p).2, hf]

section
variable {tx : TransmitUnit} {o : Station → Bool} (h : tx.Lawful o)
include h

/-- Where only counters in range, timers and retries change, the rest stands. -/
theorem TransmitUnit.Lawful.recount {u : TransmitUnit} {o' : Station → Bool} (pool : u.pool = tx.pool) (queues : u.queues = tx.queues)
    (flights : u.flights = tx.flights) (sending : u.sending = tx.sending) (completions : u.completions = tx.completions)
    (run : ∀ p c, (look2 u.counters p c).run = (look2 tx.counters p c).run)
    (inRange : ∀ p c, (look2 u.counters p c).InRange)
    (closed : ∀ p c, o' p = false → look2 u.counters p c = .zero)
    (timers : ∀ p, (look u.ackTimers p).isRunning = true → ∃ c, look2 tx.flights p c ≠ []) : u.Lawful o' := by
  have hseq (i : TxIx) : u.seqOf i = tx.seqOf i := seqOf_congr (by rw [pool])
  refine ⟨⟨by rw [queues]; exact h.distinct.queues, by rw [flights]; exact h.distinct.flights,
    by rw [completions]; exact h.distinct.completions⟩, fun i => ?_, fun p c => ⟨?_, inRange p c, closed p c⟩,
    by rw [pool]; exact h.records, by rw [flights]; exact timers⟩
  · exact Stands.keep (h.stands i) (by rw [pool]) (by simp [queues]) (by simp [flights]) (by rw [sending])
      (by rw [completions])
  · rw [flights, run, List.map_congr_left fun i _ => hseq i]
    exact (h.numbers p c).seqs

theorem TransmitUnit.Lawful.stopAck (p : Station) : (tx.stopAck p).Lawful o := by
  refine h.recount rfl rfl rfl rfl rfl (fun _ _ => rfl) (fun q c => (h.numbers q c).inRange)
    (fun q c => (h.numbers q c).closed) fun q hq => ?_
  simp only [TransmitUnit.stopAck, look_put] at hq
  split at hq
  next => exact absurd hq (by simp [Timer.isRunning])
  next => exact h.timers q hq

/-- An expiry below the retry limit puts resend points at acked where something is in flight (R102). -/
theorem TransmitUnit.Lawful.retry (p : Station) : (tx.retry p).Lawful o := by
  obtain ⟨hcounters, -⟩ := retry_spec tx p
  have hpositive {q : Station} {c : Cls} (hfl : look2 tx.flights q c ≠ []) :
      dist (look2 tx.counters q c).acked (look2 tx.counters q c).acked <
        dist (look2 tx.counters q c).acked (look2 tx.counters q c).next := by
    have hlen := congrArg List.length (h.numbers q c).seqs
    simp only [SendCounters.run, List.length_map, List.length_range] at hlen
    have := List.length_pos_iff.mpr hfl
    simp only [dist, BitVec.sub_self] at *
    simp only [BitVec.toNat_zero]
    omega
  refine h.recount (retry_field (·.pool) (fun _ _ _ => rfl) tx p) (retry_field (·.queues) (fun _ _ _ => rfl) tx p)
    (retry_field (·.flights) (fun _ _ _ => rfl) tx p) (retry_field (·.sending) (fun _ _ _ => rfl) tx p)
    (retry_field (·.completions) (fun _ _ _ => rfl) tx p) (fun q c => ?_) (fun q c => ?_) (fun q c hc => ?_)
    (by rw [retry_field (·.ackTimers) (fun _ _ _ => rfl) tx p]; exact h.timers)
  · rw [hcounters]
    split
    next hp => obtain ⟨rfl, -⟩ := hp; rfl
    next => rfl
  · rw [hcounters]
    split
    next hp =>
      obtain ⟨rfl, hfl⟩ := hp
      exact inRange_resend (h.numbers q c).inRange (hpositive hfl)
    next => exact (h.numbers q c).inRange
  · rw [hcounters, if_neg]
    · exact (h.numbers q c).closed hc
    · rintro ⟨rfl, hfl⟩
      have := hpositive hfl
      rw [(h.numbers q c).closed hc] at this
      exact absurd this (by decide)

/-- Which slots of one list a change of one slot leaves in it. -/
theorem TransmitUnit.Lawful.not_queued {p : Station} {c : Cls} {i : TxIx} (hi : ∀ r, look tx.pool i = .held r → r.state ≠ .queued) :
    i ∉ look2 tx.queues p c := fun hm => by
  obtain ⟨r, hr, -, -, hq⟩ := queued_of_mem (h.stands i) hm
  exact hi r hr hq

/-- A SUBMIT's message takes a FREE slot to the tail of its queue (R71). -/
theorem TransmitUnit.Lawful.enqueue {i : TxIx} {p : Station} {c : Cls} {hostTag : BitVec 16} {payload : List Byte}
    (free : look tx.pool i = .free) (min : 1 ≤ payload.length) (max : payload.length ≤ 500) :
    (tx.enqueue i p c hostTag payload).Lawful o := by
  obtain ⟨hq, hf, hs, hd⟩ := (stands_free free).mp (h.stands i)
  have hslot (j : TxIx) (hj : j ≠ i) : look (tx.enqueue i p c hostTag payload).pool j = look tx.pool j := by
    simp [TransmitUnit.enqueue, look_put_ne _ _ (Ne.symm hj)]
  have hself : look (tx.enqueue i p c hostTag payload).pool i =
      .held ⟨hostTag, p, c, payload.length, payload, 0, tx.nextOrder, .queued⟩ := by simp [TransmitUnit.enqueue]
  have hqueues (q : Station) (d : Cls) : look2 (tx.enqueue i p c hostTag payload).queues q d =
      look2 tx.queues q d ++ if p = q ∧ c = d then [i] else [] := by
    simp only [TransmitUnit.enqueue, look2_put2]
    split
    next hp => obtain ⟨rfl, rfl⟩ := hp; rfl
    next => simp
  refine ⟨⟨fun q d => ?_, h.distinct.flights, h.distinct.completions⟩, fun j => ?_, fun q d => ?_, fun j => ?_, h.timers⟩
  · rw [hqueues]
    split
    · exact List.nodup_append'.mpr
        ⟨h.distinct.queues q d, List.nodup_singleton i, List.disjoint_singleton.mpr (hq q d)⟩
    · simpa using h.distinct.queues q d
  · obtain rfl | hj := eq_or_ne j i
    · refine (stands_queued hself rfl).mpr ⟨fun q d => ?_, hf, hs, hd⟩
      rw [hqueues]
      by_cases hqd : p = q ∧ c = d <;> simp [hqd, hq q d]
    · refine Stands.keep (h.stands j) (hslot j hj) (fun q d => ?_) (fun _ _ => Iff.rfl) Iff.rfl Iff.rfl
      rw [hqueues]
      by_cases hqd : p = q ∧ c = d <;> simp [hqd, hj]
  · refine Numbers.keep (h.numbers q d) rfl rfl (fun j hj => seqOf_congr (hslot j ?_)) id
    rintro rfl
    exact hf q d hj
  · obtain rfl | hj := eq_or_ne j i
    · rw [hself]
      simp [TxSlot.isLawful, TxRecord.lawful, min, max]
    · rw [hslot j hj]
      exact h.records j

/-- A record read whole frees the head of the completion queue (R80). -/
theorem TransmitUnit.Lawful.popCompletion : tx.popCompletion.Lawful o := by
  unfold TransmitUnit.popCompletion
  split
  next => exact h
  next i rest hlist =>
    have hnodup := h.distinct.completions
    rw [hlist] at hnodup
    obtain ⟨hrest, hnodup⟩ := List.nodup_cons.mp hnodup
    obtain ⟨r, status, reason, hr, hdone⟩ := done_of_mem (h.stands i) (by simp [hlist])
    obtain ⟨hq, hf, hs, -⟩ := (stands_done hr hdone).mp (h.stands i)
    have hslot (j : TxIx) (hj : j ≠ i) : look (put tx.pool i .free) j = look tx.pool j := look_put_ne _ _ (Ne.symm hj)
    refine ⟨⟨h.distinct.queues, h.distinct.flights, hnodup⟩, fun j => ?_, fun q d => ?_, fun j => ?_, h.timers⟩
    · obtain rfl | hj := eq_or_ne j i
      · exact (stands_free (look_put_self _ _ _)).mpr ⟨hq, hf, hs, hrest⟩
      · refine Stands.keep (h.stands j) (hslot j hj) (fun _ _ => Iff.rfl) (fun _ _ => Iff.rfl) Iff.rfl ?_
        simp [hlist, hj]
    · refine Numbers.keep (h.numbers q d) rfl rfl (fun j hj => seqOf_congr (hslot j ?_)) id
      rintro rfl
      exact hf q d hj
    · simp only
      obtain rfl | hj := eq_or_ne j i
      · rw [look_put_self]
        rfl
      · rw [hslot j hj]
        exact h.records j

/-- The head of a queue becomes the SENDING slot (R74). -/
theorem TransmitUnit.Lawful.tieFirst {p : Station} {c : Cls} {i : TxIx} (head : (look2 tx.queues p c).head? = some i)
    (none : tx.sending = none) : (tx.tieFirst p c i).Lawful o := by
  obtain ⟨rest, hlist⟩ : ∃ rest, look2 tx.queues p c = i :: rest := by
    cases hl : look2 tx.queues p c with
    | nil => simp [hl] at head
    | cons j rest => exact ⟨rest, by simpa [hl] using head⟩
  obtain ⟨r, hr, hp, hc, hstate⟩ := queued_of_mem (h.stands i) (by rw [hlist]; simp)
  obtain ⟨hq, hf, hs, hd⟩ := (stands_queued hr hstate).mp (h.stands i)
  have hnodup := h.distinct.queues p c
  rw [hlist] at hnodup
  obtain ⟨hrest, hnodup⟩ := List.nodup_cons.mp hnodup
  have hslot (j : TxIx) (hj : j ≠ i) : look (tx.tieFirst p c i).pool j = look tx.pool j := by
    simp [TransmitUnit.tieFirst, look_put_ne _ _ (Ne.symm hj)]
  have hself : look (tx.tieFirst p c i).pool i = .held { r with state := .sending } := by
    simp [TransmitUnit.tieFirst, hr]
  have hqueues (q : Station) (d : Cls) : look2 (tx.tieFirst p c i).queues q d =
      if p = q ∧ c = d then rest else look2 tx.queues q d := by
    simp [TransmitUnit.tieFirst, look2_put2, hlist]
  have hflights : (tx.tieFirst p c i).flights = tx.flights := by simp [TransmitUnit.tieFirst]
  have hcounters : (tx.tieFirst p c i).counters = tx.counters := by simp [TransmitUnit.tieFirst]
  have hcompletions : (tx.tieFirst p c i).completions = tx.completions := by simp [TransmitUnit.tieFirst]
  have htimers : (tx.tieFirst p c i).ackTimers = tx.ackTimers := by simp [TransmitUnit.tieFirst]
  refine ⟨⟨fun q d => ?_, by rw [hflights]; exact h.distinct.flights, by rw [hcompletions]; exact h.distinct.completions⟩,
    fun j => ?_, fun q d => ?_, fun j => ?_, by rw [htimers, hflights]; exact h.timers⟩
  · rw [hqueues]
    split
    · exact hnodup
    · exact h.distinct.queues q d
  · obtain rfl | hj := eq_or_ne j i
    · refine (stands_sending hself rfl).mpr ⟨fun q d => ?_, by rw [hflights]; exact hf, rfl, by rw [hcompletions]; exact hd⟩
      rw [hqueues]
      split
      next => exact hrest
      next hn => exact fun hm => hn ⟨hp.symm.trans ((hq q d).mp hm).1, hc.symm.trans ((hq q d).mp hm).2⟩
    · refine Stands.keep (h.stands j) (hslot j hj) (fun q d => ?_) (by simp [hflights]) ?_ (by rw [hcompletions])
      · rw [hqueues]
        split
        next hp => obtain ⟨rfl, rfl⟩ := hp; simp [hlist, hj]
        next => exact Iff.rfl
      · simp [TransmitUnit.tieFirst, none, Ne.symm hj]
  · refine Numbers.keep (h.numbers q d) (by rw [hflights]) (by rw [hcounters]) (fun j hj => seqOf_congr (hslot j ?_)) id
    rintro rfl
    exact hf q d hj
  · obtain rfl | hj := eq_or_ne j i
    · have := h.records j
      rw [hr] at this
      rw [hself]
      simpa [TxSlot.isLawful, TxRecord.lawful, hstate] using this
    · rw [hslot j hj]
      exact h.records j

end

end Sys2Proof.Machine

/-! PROOFS. The win, the loss and the abort of a MESSAGE, and the completions of slots, keep the send side's accounting (R75,
R91 to R94, R98, R105 to R107). -/

namespace Sys2Proof.Machine

/-! ## A MESSAGE on the line -/

section OnLine
variable {tx : TransmitUnit} {o : Station → Bool} (h : tx.Lawful o)
include h

/-- A first transmission is won: its slot goes in flight behind the others, under S (R91). -/
theorem TransmitUnit.Lawful.winFirst {t : Tie} (k : Nat) (opened : o t.peer = true)
    (hfor : tx.isFor t.peer t.cls t.slot = true) (sending : tx.sending = some t.slot)
    (credit : 0 < tx.credit t.peer t.cls) : (tx.winFirst t k).Lawful o := by
  obtain ⟨r, hr, hp, hc⟩ := isFor_iff.mp hfor
  obtain ⟨r', hr', hstate⟩ := sending_of_eq (h.stands _) sending
  obtain rfl : r = r' := by simpa [hr] using hr'
  obtain ⟨hq, hf, -, hd⟩ := (stands_sending hr hstate).mp (h.stands _)
  obtain ⟨hrun, hrange⟩ := run_next credit (h.numbers t.peer t.cls).inRange
  have hslot (j : TxIx) (hj : j ≠ t.slot) : look (tx.winFirst t k).pool j = look tx.pool j := by
    simp [TransmitUnit.winFirst, look_put_ne _ _ (Ne.symm hj)]
  have hself : look (tx.winFirst t k).pool t.slot =
      .held { r with state := .inFlight (look2 tx.counters t.peer t.cls).next, transmitCount := 1 } := by
    simp [TransmitUnit.winFirst, hr]
  have hflights (q : Station) (d : Cls) : look2 (tx.winFirst t k).flights q d =
      look2 tx.flights q d ++ if t.peer = q ∧ t.cls = d then [t.slot] else [] := by
    simp only [TransmitUnit.winFirst, look2_put2]
    split
    next hp => obtain ⟨rfl, rfl⟩ := hp; rfl
    next => simp
  have hcounters (q : Station) (d : Cls) : look2 (tx.winFirst t k).counters q d =
      if t.peer = q ∧ t.cls = d then
        { look2 tx.counters t.peer t.cls with next := (look2 tx.counters t.peer t.cls).next + 1 }
      else look2 tx.counters q d := by
    simp only [TransmitUnit.winFirst, look2_put2]
  have hqueues : (tx.winFirst t k).queues = tx.queues := by simp [TransmitUnit.winFirst]
  have hcompletions : (tx.winFirst t k).completions = tx.completions := by simp [TransmitUnit.winFirst]
  have hseq (q : Station) (d : Cls) (j : TxIx) (hj : j ∈ look2 tx.flights q d) :
      (tx.winFirst t k).seqOf j = tx.seqOf j := seqOf_congr (hslot j fun e => hf q d (e ▸ hj))
  refine ⟨⟨by rw [hqueues]; exact h.distinct.queues, fun q d => ?_, by rw [hcompletions]; exact h.distinct.completions⟩,
    fun j => ?_, fun q d => ?_, fun j => ?_, fun q hq => ?_⟩
  · rw [hflights]
    split
    · exact List.nodup_append'.mpr
        ⟨h.distinct.flights q d, List.nodup_singleton _, List.disjoint_singleton.mpr (hf q d)⟩
    · simpa using h.distinct.flights q d
  · obtain rfl | hj := eq_or_ne j t.slot
    · refine (stands_inFlight hself rfl).mpr
        ⟨by rw [hqueues]; exact hq, fun q d => ?_, by simp [TransmitUnit.winFirst], by rw [hcompletions]; exact hd⟩
      rw [hflights]
      by_cases hqd : t.peer = q ∧ t.cls = d <;> simp [hqd, hf q d, hp, hc]
    · refine Stands.keep (h.stands j) (hslot j hj) (by simp [hqueues]) (fun q d => ?_) ?_ (by rw [hcompletions])
      · rw [hflights]
        by_cases hqd : t.peer = q ∧ t.cls = d <;> simp [hqd, hj]
      · simp [TransmitUnit.winFirst, sending, Ne.symm hj]
  · by_cases hqd : t.peer = q ∧ t.cls = d
    · obtain ⟨rfl, rfl⟩ := hqd
      refine ⟨?_, ?_, fun hn => absurd (opened.symm.trans hn) (by decide)⟩
      · rw [hflights, hcounters, if_pos ⟨rfl, rfl⟩, if_pos ⟨rfl, rfl⟩, hrun, List.map_append,
          List.map_congr_left (hseq _ _), (h.numbers t.peer t.cls).seqs, List.map_cons, List.map_nil,
          seqOf_held hself]
      · rw [hcounters, if_pos ⟨rfl, rfl⟩]
        exact hrange
    · exact Numbers.keep (h.numbers q d) (by simp [hflights, hqd]) (by simp [hcounters, hqd]) (hseq q d) id
  · obtain rfl | hj := eq_or_ne j t.slot
    · have := h.records t.slot
      rw [hr] at this
      rw [hself]
      simp only [TxSlot.isLawful, TxRecord.lawful, hstate, Bool.and_eq_true] at this ⊢
      simp [this]
    · rw [hslot j hj]
      exact h.records j
  · obtain rfl | hqp := eq_or_ne t.peer q
    · exact ⟨t.cls, by simp [hflights]⟩
    · have hold : (look tx.ackTimers q).isRunning = true := by
        simpa [TransmitUnit.winFirst, look_alter_ne _ _ hqp] using hq
      obtain ⟨d, hd⟩ := h.timers q hold
      exact ⟨d, by simp [hflights, hqp, hd]⟩

/-- A resend is won: its slot counts one more transmission, up to 16 (R92). -/
theorem TransmitUnit.Lawful.winResend {t : Tie} (k : Nat) (opened : o t.peer = true)
    (hfor : tx.isFor t.peer t.cls t.slot = true) (carries : tx.carries t.seq t.slot = true) :
    (tx.winResend t k).Lawful o := by
  obtain ⟨r, hr, hstate⟩ := carries_iff.mp carries
  have hmem := (carried_before_next h hfor carries).1
  have hslot (j : TxIx) (hj : j ≠ t.slot) : look (tx.winResend t k).pool j = look tx.pool j := by
    simp [TransmitUnit.winResend, look_put_ne _ _ (Ne.symm hj)]
  have hself : look (tx.winResend t k).pool t.slot =
      .held { r with transmitCount := min Config.maxTransmitCount (r.transmitCount + 1) } := by
    simp [TransmitUnit.winResend, hr]
  have hqueues : (tx.winResend t k).queues = tx.queues := by simp [TransmitUnit.winResend]
  have hflights : (tx.winResend t k).flights = tx.flights := by simp [TransmitUnit.winResend]
  have hcompletions : (tx.winResend t k).completions = tx.completions := by simp [TransmitUnit.winResend]
  have hsending : (tx.winResend t k).sending = tx.sending := by simp [TransmitUnit.winResend]
  have hcounters (q : Station) (d : Cls) : look2 (tx.winResend t k).counters q d =
      if t.peer = q ∧ t.cls = d then (look2 tx.counters t.peer t.cls).afterResendWon t.seq
      else look2 tx.counters q d := by
    simp only [TransmitUnit.winResend, look2_put2]
  have hseq (j : TxIx) : (tx.winResend t k).seqOf j = tx.seqOf j := by
    obtain rfl | hj := eq_or_ne j t.slot
    · rw [seqOf_held hself, seqOf_held hr]
    · exact seqOf_congr (hslot j hj)
  refine ⟨⟨by rw [hqueues]; exact h.distinct.queues, by rw [hflights]; exact h.distinct.flights,
    by rw [hcompletions]; exact h.distinct.completions⟩, fun j => ?_, fun q d => ?_, fun j => ?_, fun q hq => ?_⟩
  · obtain rfl | hj := eq_or_ne j t.slot
    · have hold := (stands_inFlight hr hstate).mp (h.stands t.slot)
      exact (stands_inFlight hself hstate).mpr (by rw [hqueues, hflights, hsending, hcompletions]; exact hold)
    · exact Stands.keep (h.stands j) (hslot j hj) (by simp [hqueues]) (by simp [hflights]) (by rw [hsending])
        (by rw [hcompletions])
  · by_cases hqd : t.peer = q ∧ t.cls = d
    · obtain ⟨rfl, rfl⟩ := hqd
      obtain ⟨hrun, hrange⟩ := inRange_afterResendWon (h.numbers t.peer t.cls).inRange t.seq
      refine ⟨?_, ?_, fun hn => absurd (opened.symm.trans hn) (by decide)⟩ <;> rw [hcounters, if_pos ⟨rfl, rfl⟩]
      · rw [hflights, List.map_congr_left fun j _ => hseq j, hrun]
        exact (h.numbers t.peer t.cls).seqs
      · exact hrange
    · exact Numbers.keep (h.numbers q d) (by rw [hflights]) (by simp [hcounters, hqd]) (fun j _ => hseq j) id
  · obtain rfl | hj := eq_or_ne j t.slot
    · have := h.records t.slot
      rw [hr] at this
      rw [hself]
      simp only [TxSlot.isLawful, TxRecord.lawful, hstate, Bool.and_eq_true, decide_eq_true_eq,
        Config.maxTransmitCount] at this ⊢
      omega
    · rw [hslot j hj]
      exact h.records j
  · rw [hflights]
    obtain rfl | hqp := eq_or_ne t.peer q
    · exact ⟨t.cls, List.ne_nil_of_mem hmem⟩
    · exact h.timers q (by simpa [TransmitUnit.winResend, look_alter_ne _ _ hqp] using hq)

/-- What becomes of the tie is nothing of the accounting's. -/
theorem TransmitUnit.Lawful.retie (t : Option Tie) : ({ tx with tie := t } : TransmitUnit).Lawful o :=
  ⟨⟨h.distinct.queues, h.distinct.flights, h.distinct.completions⟩,
    fun i => Stands.keep (h.stands i) rfl (fun _ _ => Iff.rfl) (fun _ _ => Iff.rfl) Iff.rfl Iff.rfl,
    fun q d => Numbers.keep (h.numbers q d) rfl rfl (fun _ _ => rfl) id, h.records, h.timers⟩

/-- A lost first transmission returns to the head of its queue (R93). -/
theorem TransmitUnit.Lawful.lost (tied : ∀ t ∈ tx.tie, tx.isFor t.peer t.cls t.slot = true ∧
    (t.first = true → tx.sending = some t.slot)) : tx.lost.Lawful o := by
  unfold TransmitUnit.lost
  split
  next => exact h
  next t htie =>
    obtain ⟨hfor, hsending⟩ := tied t htie
    split
    next hfirst =>
      have sending := hsending hfirst
      obtain ⟨r, hr, hp, hc⟩ := isFor_iff.mp hfor
      obtain ⟨r', hr', hstate⟩ := sending_of_eq (h.stands _) sending
      obtain rfl : r = r' := by simpa [hr] using hr'
      obtain ⟨hq, hf, -, hd⟩ := (stands_sending hr hstate).mp (h.stands _)
      have hslot (j : TxIx) (hj : j ≠ t.slot) : look (put tx.pool t.slot
          ((look tx.pool t.slot).change fun r => { r with state := .queued, transmitCount := 0 })) j = look tx.pool j :=
        look_put_ne _ _ (Ne.symm hj)
      have hqueues (q : Station) (d : Cls) : look2 (put2 tx.queues t.peer t.cls (t.slot :: look2 tx.queues t.peer t.cls)) q d =
          (if t.peer = q ∧ t.cls = d then [t.slot] else []) ++ look2 tx.queues q d := by
        rw [look2_put2]
        split
        next hp => obtain ⟨rfl, rfl⟩ := hp; rfl
        next => simp
      rw [changeSlot_eq]
      refine ⟨⟨fun q d => ?_, h.distinct.flights, h.distinct.completions⟩, fun j => ?_, fun q d => ?_, fun j => ?_,
        h.timers⟩
      · simp only
        rw [hqueues]
        split
        · exact List.nodup_cons.mpr ⟨hq q d, h.distinct.queues q d⟩
        · exact h.distinct.queues q d
      · obtain rfl | hj := eq_or_ne j t.slot
        · have hself : look (put tx.pool t.slot ((look tx.pool t.slot).change
              fun r => { r with state := .queued, transmitCount := 0 })) t.slot =
                .held { r with state := .queued, transmitCount := 0 } := by simp [hr]
          refine (stands_queued hself rfl).mpr ⟨fun q d => ?_, hf, by simp, hd⟩
          simp only
          rw [hqueues]
          by_cases hqd : t.peer = q ∧ t.cls = d <;> simp [hqd, hq q d, hp, hc]
        · refine Stands.keep (h.stands j) (hslot j hj) (fun q d => ?_) (fun _ _ => Iff.rfl) ?_ Iff.rfl
          · simp only
            rw [hqueues]
            by_cases hqd : t.peer = q ∧ t.cls = d <;> simp [hqd, hj]
          · simp [sending, Ne.symm hj]
      · exact Numbers.keep (h.numbers q d) rfl rfl
          (fun j hj => seqOf_congr (hslot j fun e => hf q d (e ▸ hj))) id
      · simp only
        obtain rfl | hj := eq_or_ne j t.slot
        · have := h.records t.slot
          rw [hr] at this
          simp only [look_put_self, hr, change_held, TxSlot.isLawful, TxRecord.lawful, hstate] at this ⊢
          simp only [Bool.and_eq_true, decide_eq_true_eq] at this ⊢
          obtain ⟨hlength, hpayload, -⟩ := this
          exact ⟨hlength, hpayload, trivial⟩
        · rw [hslot j hj]
          exact h.records j
    next => exact h.retie none

/-- An aborted MESSAGE sets the resend point of its class (R94). -/
theorem TransmitUnit.Lawful.aborted (tied : ∀ t ∈ tx.tie, o t.peer = true ∧
    tx.isFor t.peer t.cls t.slot = true ∧ tx.carries t.seq t.slot = true) : tx.aborted.Lawful o := by
  unfold TransmitUnit.aborted
  split
  next => exact h
  next t htie =>
    obtain ⟨opened, hfor, carries⟩ := tied t htie
    have hlt := (carried_before_next h hfor carries).2
    obtain ⟨hrun, hrange⟩ := inRange_afterAbort (h.numbers t.peer t.cls).inRange hlt
    refine h.recount rfl rfl rfl rfl rfl (fun q d => ?_) (fun q d => ?_) (fun q d hn => ?_) h.timers <;>
      simp only [look2_put2]
    · split
      next hqd => obtain ⟨rfl, rfl⟩ := hqd; exact hrun
      next => rfl
    · split
      next => exact hrange
      next => exact (h.numbers q d).inRange
    · split
      next hqd => obtain ⟨rfl, rfl⟩ := hqd; exact absurd (opened.symm.trans hn) (by decide)
      next => exact (h.numbers q d).closed hn

end OnLine

/-! ## Completions -/

/-- Is the record's slot not yet DONE? -/
def TxRecord.IsOpen (r : TxRecord) : Prop := ∀ status reason, r.state ≠ .done status reason

section Finish
variable {tx u : TransmitUnit} {o o' : Station → Bool} {is : List TxIx} {status : CompletionStatus} {reason : CloseReason}

/-- The slots `is` leave their lists and become DONE at the tail of the completion queue: what it takes for the accounting
to stand (R77). -/
theorem TransmitUnit.Lawful.finished (h : tx.Lawful o) (nodup : is.Nodup)
    (live : ∀ i ∈ is, ∃ r, look tx.pool i = .held r ∧ r.IsOpen ∧ (r.finished status reason).lawful = true ∧
      look u.pool i = .held (r.finished status reason))
    (others : ∀ i, i ∉ is → look u.pool i = look tx.pool i)
    (completions : u.completions = tx.completions ++ is)
    (queues : ∀ p c, (look2 u.queues p c).Nodup ∧ ∀ i, i ∈ look2 u.queues p c ↔ i ∈ look2 tx.queues p c ∧ i ∉ is)
    (flights : ∀ p c, (look2 u.flights p c).Nodup ∧ ∀ i, i ∈ look2 u.flights p c ↔ i ∈ look2 tx.flights p c ∧ i ∉ is)
    (sending : ∀ i, u.sending = some i ↔ tx.sending = some i ∧ i ∉ is)
    (numbers : ∀ p c, u.Numbers (o' p) p c)
    (timers : ∀ p, (look u.ackTimers p).isRunning = true → ∃ c, look2 u.flights p c ≠ []) : u.Lawful o' := by
  have hfresh (i : TxIx) (hi : i ∈ is) : i ∉ tx.completions := fun hm => by
    obtain ⟨r, hr, hopen, -⟩ := live i hi
    obtain ⟨r', st, re, hr', hdone⟩ := done_of_mem (h.stands i) hm
    obtain rfl : r = r' := by simpa [hr] using hr'
    exact hopen st re hdone
  refine ⟨⟨fun p c => (queues p c).1, fun p c => (flights p c).1, ?_⟩, fun i => ?_, numbers, fun i => ?_, timers⟩
  · rw [completions]
    exact List.nodup_append'.mpr ⟨h.distinct.completions, nodup, fun i hd hi => hfresh i hi hd⟩
  · by_cases hi : i ∈ is
    · obtain ⟨r, -, -, -, hu⟩ := live i hi
      refine (stands_done hu rfl).mpr ⟨fun p c => ?_, fun p c => ?_, ?_, by simp [completions, hi]⟩
      · simp [(queues p c).2, hi]
      · simp [(flights p c).2, hi]
      · simp [sending, hi]
    · refine Stands.keep (h.stands i) (others i hi) (fun p c => ?_) (fun p c => ?_) ?_ (by simp [completions, hi])
      · simp [(queues p c).2, hi]
      · simp [(flights p c).2, hi]
      · simp [sending, hi]
  · by_cases hi : i ∈ is
    · obtain ⟨r, -, -, hlawful, hu⟩ := live i hi
      rw [hu]
      exact hlawful
    · rw [others i hi]
      exact h.records i

/-- What a DONE slot's record holds, by how it completed (R78). -/
theorem lawful_done {r : TxRecord} (done : r.state = .done status reason) :
    r.lawful = true ↔ 1 ≤ r.length ∧ r.length ≤ 500 ∧ r.payload = [] ∧ match status with
      | .sent => 1 ≤ r.transmitCount ∧ r.transmitCount ≤ 16 ∧ reason = .none
      | .cancelled => r.transmitCount = 0 ∧ reason = .none
      | .dropped => r.transmitCount ≤ 16 ∧ reason ≠ .none := by
  cases status <;> simp [TxRecord.lawful, done, and_assoc]

/-- What a live slot's record holds. -/
theorem lawful_live {r : TxRecord} (h : r.lawful = true) (live : r.IsOpen) :
    1 ≤ r.length ∧ r.length ≤ 500 ∧ r.transmitCount ≤ 16 := by
  simp only [TxRecord.lawful, Bool.and_eq_true, decide_eq_true_eq] at h
  cases hs : r.state with
  | done st re => exact absurd hs (live st re)
  | _ =>
    simp only [hs, Bool.and_eq_true, decide_eq_true_eq] at h
    omega

/-- The record of a slot DROPPED by a close (R105). -/
theorem lawful_dropped {r : TxRecord} (h : r.lawful = true) (live : r.IsOpen) (notNone : reason ≠ .none) :
    (r.finished .dropped reason).lawful = true := by
  obtain ⟨hmin, hmax, hcount⟩ := lawful_live h live
  exact (lawful_done (status := .dropped) rfl).mpr ⟨hmin, hmax, rfl, hcount, notNone⟩

/-- The record of a slot SENT (R98). -/
theorem lawful_sent {r : TxRecord} {q : Count} (h : r.lawful = true) (flying : r.state = .inFlight q) :
    (r.finished .sent .none).lawful = true := by
  simp only [TxRecord.lawful, flying, Bool.and_eq_true, decide_eq_true_eq] at h
  obtain ⟨⟨hmin, hmax⟩, ⟨-, hone⟩, hcount⟩ := h
  exact (lawful_done (status := .sent) rfl).mpr ⟨hmin, hmax, rfl, hone, hcount, rfl⟩

/-- A QUEUED slot withdrawn (R75). -/
theorem TransmitUnit.Lawful.withdraw (h : tx.Lawful o) {p : Station} {i : TxIx} {r : TxRecord}
    (held : look tx.pool i = .held r) (dest : r.destination = p) (queued : r.state = .queued) :
    (tx.withdraw p r.cls i).Lawful o := by
  subst dest
  obtain ⟨hq, hf, hs, hd⟩ := (stands_queued held queued).mp (h.stands i)
  have hlawful : r.lawful = true := by simpa [held, TxSlot.isLawful] using h.records i
  have hcount : r.transmitCount = 0 := by
    simp only [TxRecord.lawful, queued, Bool.and_eq_true, decide_eq_true_eq] at hlawful
    exact hlawful.2.2
  have hself : look (tx.withdraw r.destination r.cls i).pool i = .held (r.finished .cancelled .none) := by
    simp [TransmitUnit.withdraw, TransmitUnit.finish, TransmitUnit.unqueue, held, TxRecord.finished, hcount]
  have hslot (j : TxIx) (hj : j ≠ i) : look (tx.withdraw r.destination r.cls i).pool j = look tx.pool j := by
    simp [TransmitUnit.withdraw, TransmitUnit.finish, TransmitUnit.unqueue, look_put_ne _ _ (Ne.symm hj)]
  have hflights : (tx.withdraw r.destination r.cls i).flights = tx.flights := by
    simp [TransmitUnit.withdraw, TransmitUnit.finish, TransmitUnit.unqueue]
  have hcounters : (tx.withdraw r.destination r.cls i).counters = tx.counters := by
    simp [TransmitUnit.withdraw, TransmitUnit.finish, TransmitUnit.unqueue]
  have hqueues (q : Station) (c : Cls) : look2 (tx.withdraw r.destination r.cls i).queues q c =
      if r.destination = q ∧ r.cls = c then (look2 tx.queues q c).erase i else look2 tx.queues q c := by
    simp only [TransmitUnit.withdraw, TransmitUnit.finish, TransmitUnit.unqueue, changeSlot_queues, look2_put2]
    split
    next hqc => obtain ⟨rfl, rfl⟩ := hqc; rfl
    next => rfl
  refine h.finished (is := [i]) (status := .cancelled) (reason := .none) (List.nodup_singleton i) (fun j hj => ?_) (fun j hj => hslot j (by simpa using hj)) ?_
    (fun q c => ?_) (fun q c => ?_) (fun j => ?_) (fun q c => ?_) ?_
  · obtain rfl := List.mem_singleton.mp hj
    refine ⟨r, held, fun st re => by simp [queued], ?_, hself⟩
    simp only [TxRecord.lawful, TxRecord.finished, queued, Bool.and_eq_true, decide_eq_true_eq] at hlawful ⊢
    simp [hlawful]
  · simp [TransmitUnit.withdraw, TransmitUnit.finish, TransmitUnit.unqueue]
  · rw [hqueues]
    split
    next hqc => exact ⟨(h.distinct.queues q c).erase i, fun j => by
      rw [(h.distinct.queues q c).mem_erase_iff, List.mem_singleton, and_comm]⟩
    next hqc =>
      refine ⟨h.distinct.queues q c, fun j => ⟨fun hj => ⟨hj, fun hji => ?_⟩, And.left⟩⟩
      obtain rfl := List.mem_singleton.mp hji
      exact hqc ((hq q c).mp hj)
  · rw [hflights]
    refine ⟨h.distinct.flights q c, fun j => ⟨fun hj => ⟨hj, fun hji => ?_⟩, And.left⟩⟩
    obtain rfl := List.mem_singleton.mp hji
    exact hf q c hj
  · have hsend : (tx.withdraw r.destination r.cls i).sending = tx.sending := by
      simp [TransmitUnit.withdraw, TransmitUnit.finish, TransmitUnit.unqueue]
    rw [hsend]
    refine ⟨fun hj => ⟨hj, fun hji => ?_⟩, And.left⟩
    obtain rfl := List.mem_singleton.mp hji
    exact hs hj
  · exact Numbers.keep (h.numbers q c) (by rw [hflights]) (by rw [hcounters])
      (fun j hj => seqOf_congr (hslot j fun e => hf q c (e ▸ hj))) id
  · have htimers : (tx.withdraw r.destination r.cls i).ackTimers = tx.ackTimers := by
      simp [TransmitUnit.withdraw, TransmitUnit.finish, TransmitUnit.unqueue]
    rw [htimers, hflights]
    exact h.timers

end Finish

end Sys2Proof.Machine

/-! PROOFS. A valid TALLY and a session close keep the send side's accounting (R98, R99, R105 to R107). -/

namespace Sys2Proof.Machine

section
variable {tx : TransmitUnit} {o : Station → Bool}

/-- A slot is in flight to one peer in one class. -/
theorem TransmitUnit.Lawful.flight_unique (h : tx.Lawful o) {p q : Station} {c d : Cls} {i : TxIx}
    (hi : i ∈ look2 tx.flights p c) (hi' : i ∈ look2 tx.flights q d) : p = q ∧ c = d := by
  obtain ⟨r, n, hr, hp, hc, -⟩ := inFlight_of_mem (h.stands i) hi
  obtain ⟨r', n', hr', hq, hd, -⟩ := inFlight_of_mem (h.stands i) hi'
  obtain rfl : r = r' := by simpa [hr] using hr'
  exact ⟨hp.symm.trans hq, hc.symm.trans hd⟩

/-- Where slots of a class come from lists that share none, they come once. -/
theorem nodup_classes {f : Cls → List TxIx} (each : ∀ c, (f c).Nodup)
    (apart : ∀ c d i, i ∈ f c → i ∈ f d → c = d) : (classes.flatMap f).Nodup := by
  refine List.nodup_flatMap.mpr ⟨fun c _ => each c, ?_⟩
  have hclasses : classes.Nodup := by decide
  exact hclasses.imp fun {c d} hne i hc hd => hne (apart c d i hc hd)

theorem liesBefore_eq (acked a : Count) (i : TxIx) :
    tx.liesBefore acked a i = (tx.seqOf i).any fun q => dist acked q < dist acked a := by
  simp only [TransmitUnit.liesBefore, TransmitUnit.seqOf]
  cases tx.slot i with
  | none => rfl
  | some r => cases hs : r.state <;> simp [hs]

/-! ## A valid TALLY -/

/-- The slots a TALLY acknowledges are in flight to its peer. -/
theorem acknowledged_flying {p : Station} {pairs : PerClass TallyPair} {i : TxIx}
    (hi : i ∈ classes.flatMap (tx.acknowledged p pairs)) :
    ∃ c, i ∈ look2 tx.flights p c := by
  obtain ⟨c, -, hc⟩ := List.mem_flatMap.mp hi
  exact ⟨c, (List.mem_filter.mp hc).1⟩

section Tally
variable {p : Station} {pairs : PerClass TallyPair} (h : tx.Lawful o)
include h

theorem TransmitUnit.Lawful.mem_acknowledged {c : Cls} {i : TxIx} (hi : i ∈ look2 tx.flights p c) :
    i ∈ classes.flatMap (tx.acknowledged p pairs) ↔
      tx.liesBefore (look2 tx.counters p c).acked (look pairs c).accepted i = true := by
  rw [List.mem_flatMap]
  constructor
  · rintro ⟨d, -, hd⟩
    obtain ⟨hfl, hbefore⟩ := List.mem_filter.mp hd
    obtain ⟨-, rfl⟩ := h.flight_unique hi hfl
    exact hbefore
  · exact fun hbefore => ⟨c, mem_classes c, List.mem_filter.mpr ⟨hi, hbefore⟩⟩

/-- What a TALLY leaves in flight is numbered from `accepted` on (R98). -/
theorem TransmitUnit.Lawful.unacknowledged_seqs {c : Cls} (admits : (look2 tx.counters p c).admits (look pairs c) = true)
    (empty : Bool) :
    (tx.unacknowledged p pairs c).map tx.seqOf = ((look2 tx.counters p c).afterTally (look pairs c) empty).run := by
  rw [← run_filter admits empty, ← (h.numbers p c).seqs, List.filter_map]
  refine congrArg _ (List.filter_congr fun i _ => ?_)
  rw [liesBefore_eq]
  rfl

/-- A valid TALLY takes what it acknowledges out of flight, SENT (R98, R99). -/
theorem TransmitUnit.Lawful.applyTally (k : Nat) (opened : o p = true) (valid : tx.tallyValid p pairs = true) :
    (tx.applyTally p pairs k).Lawful o := by
  obtain ⟨hcompletions, hpool, hlists, hqueues, hsending, -, -, -, htimers⟩ := applyTally_spec tx p pairs k
    fun c d hcd i hi hi' => hcd (h.flight_unique hi hi').2
  have admits (c : Cls) : (look2 tx.counters p c).admits (look pairs c) = true :=
    List.all_eq_true.mp valid c (mem_classes c)
  have hacked (i : TxIx) (hi : i ∈ classes.flatMap (tx.acknowledged p pairs)) :
      ∃ c r q, i ∈ look2 tx.flights p c ∧ look tx.pool i = .held r ∧ r.state = .inFlight q := by
    obtain ⟨c, hc⟩ := acknowledged_flying hi
    obtain ⟨r, q, hr, -, -, hq⟩ := inFlight_of_mem (h.stands i) hc
    exact ⟨c, r, q, hc, hr, hq⟩
  have hslot (i : TxIx) (hi : i ∉ classes.flatMap (tx.acknowledged p pairs)) :
      look (tx.applyTally p pairs k).pool i = look tx.pool i := by rw [hpool, if_neg hi]
  have hstays {c : Cls} {i : TxIx} (hi : i ∈ tx.unacknowledged p pairs c) :
      i ∉ classes.flatMap (tx.acknowledged p pairs) := by
    obtain ⟨hfl, hnot⟩ := List.mem_filter.mp hi
    rw [h.mem_acknowledged hfl]
    simpa using hnot
  have hother {q : Station} {c : Cls} {i : TxIx} (hqp : q ≠ p) (hi : i ∈ look2 tx.flights q c) :
      i ∉ classes.flatMap (tx.acknowledged p pairs) := fun hm => by
    obtain ⟨d, hd⟩ := acknowledged_flying hm
    exact hqp (h.flight_unique hi hd).1
  refine h.finished (is := classes.flatMap (tx.acknowledged p pairs)) (status := .sent) (reason := .none)
    (nodup_classes (fun c => (h.distinct.flights p c).filter _)
      fun c d i hc hd => (h.flight_unique (List.mem_filter.mp hc).1 (List.mem_filter.mp hd).1).2)
    (fun i hi => ?_) hslot hcompletions (fun q c => ?_) (fun q c => ?_) (fun i => ?_) (fun q c => ?_) (fun q hq => ?_)
  · obtain ⟨c, r, q, -, hr, hq⟩ := hacked i hi
    have hlawful : r.lawful = true := by simpa [hr, TxSlot.isLawful] using h.records i
    exact ⟨r, hr, fun st re => by simp [hq], lawful_sent hlawful hq, by rw [hpool, if_pos hi, hr]; rfl⟩
  · rw [hqueues]
    refine ⟨h.distinct.queues q c, fun i => ⟨fun hi => ⟨hi, fun hm => ?_⟩, And.left⟩⟩
    obtain ⟨-, r, n, -, hr, hn⟩ := hacked i hm
    exact h.not_queued (fun r' hr' => by obtain rfl : r = r' := by simpa [hr] using hr'
                                         simp [hn]) hi
  · rw [(hlists q c).1]
    split
    next hqp =>
      subst hqp
      refine ⟨(h.distinct.flights q c).filter _, fun i => ⟨fun hi => ⟨(List.mem_filter.mp hi).1, hstays hi⟩, ?_⟩⟩
      rintro ⟨hfl, hnot⟩
      rw [h.mem_acknowledged hfl] at hnot
      exact List.mem_filter.mpr ⟨hfl, by simpa using hnot⟩
    next hqp => exact ⟨h.distinct.flights q c, fun i => ⟨fun hi => ⟨hi, hother hqp hi⟩, And.left⟩⟩
  · rw [hsending]
    refine ⟨fun hi => ⟨hi, fun hm => ?_⟩, And.left⟩
    obtain ⟨c, -, -, hfl, -⟩ := hacked i hm
    obtain ⟨r, hr, hs⟩ := sending_of_eq (h.stands i) hi
    exact ((stands_sending hr hs).mp (h.stands i)).2.1 p c hfl
  · by_cases hqp : q = p
    · subst hqp
      have hempty := (hlists q c).2
      rw [if_pos rfl] at hempty
      have hseqs := h.unacknowledged_seqs (admits c) (tx.unacknowledged q pairs c).isEmpty
      refine ⟨?_, ?_, fun hn => absurd (opened.symm.trans hn) (by decide)⟩ <;> rw [hempty]
      · rw [(hlists q c).1, if_pos rfl, List.map_congr_left fun i hi => seqOf_congr (hslot i (hstays hi))]
        exact hseqs
      · refine inRange_afterTally (h.numbers q c).inRange (admits c) fun hne => ?_
        have hlen := congrArg List.length hseqs
        simp only [SendCounters.run, SendCounters.afterTally, List.length_map, List.length_range] at hlen
        rw [← hlen]
        exact List.length_pos_iff.mpr (by simpa using hne)
    · have hfl := (hlists q c).1
      have hco := (hlists q c).2
      rw [if_neg hqp] at hfl hco
      exact Numbers.keep (h.numbers q c) hfl hco (fun i hi => seqOf_congr (hslot i (hother hqp hi))) id
  · rw [htimers] at hq
    by_cases hqp : q = p
    · subst hqp
      split at hq
      next hadv =>
        rw [look_put_self] at hq
        split at hq
        next hany =>
          obtain ⟨c, -, hc⟩ := List.any_eq_true.mp hany
          exact ⟨c, by simpa using hc⟩
        next => exact absurd hq (by simp [Timer.isRunning])
      next hadv =>
        obtain ⟨c, hc⟩ := h.timers q hq
        have hsame : (look2 tx.counters q c).acked = (look pairs c).accepted := by
          by_contra hne
          exact hadv (List.any_eq_true.mpr ⟨c, mem_classes c, by simpa using hne⟩)
        refine ⟨c, ?_⟩
        rw [(hlists q c).1, if_pos rfl, TransmitUnit.unacknowledged, List.filter_eq_self.mpr]
        · exact hc
        · intro i _
          rw [liesBefore_eq, hsame]
          simp [dist]
    · have hold : (look tx.ackTimers q).isRunning = true := by
        split at hq
        next => rwa [look_put_ne _ _ (Ne.symm hqp)] at hq
        next => exact hq
      obtain ⟨c, hc⟩ := h.timers q hold
      exact ⟨c, by rw [(hlists q c).1, if_neg hqp]; exact hc⟩

end Tally

/-! ## A session close -/

/-- What a close completes leaves the unit lawful, if no one but `p` loses a slot and `p`'s counters stand at zero. -/
theorem TransmitUnit.Lawful.closedBy {s t : State} {p : Station} {reason : CloseReason} {is : List TxIx} {o' : Station → Bool}
    (h : s.tx.Lawful o) (notNone : reason ≠ .none) (others : ∀ q, q ≠ p → o' q = o q)
    (completed : Completed .dropped reason is [] s t) (nodup : is.Nodup)
    (live : ∀ i ∈ is, ∃ r, look s.tx.pool i = .held r ∧ r.destination = p ∧ r.IsOpen)
    (flying : ∀ c, ∀ i ∈ look2 s.tx.flights p c, i ∈ is)
    (queues : ∀ c, (look2 t.tx.queues p c).Nodup ∧
      ∀ i, i ∈ look2 t.tx.queues p c ↔ i ∈ look2 s.tx.queues p c ∧ i ∉ is)
    (flights : ∀ c, look2 t.tx.flights p c = []) (zero : SendSideZero p t) (keep : OtherSendSidesKeep p s t)
    (sending : ∀ i, t.tx.sending = some i ↔ s.tx.sending = some i ∧ i ∉ is) : t.tx.Lawful o' := by
  obtain ⟨hcompletions, hdone, hsame⟩ := completed
  have hslot (i : TxIx) (hi : i ∉ is) : look t.tx.pool i = look s.tx.pool i := hsame i hi (by simp)
  have hdest {q : Station} {c : Cls} {i : TxIx} (hqp : q ≠ p) (hi : i ∈ look2 s.tx.flights q c ∨ i ∈ look2 s.tx.queues q c) :
      i ∉ is := fun hm => by
    obtain ⟨r, hr, hp, -⟩ := live i hm
    have hq : r.destination = q := by
      obtain hi | hi := hi
      · obtain ⟨r', n, hr', hq, -⟩ := inFlight_of_mem (h.stands i) hi
        obtain rfl : r = r' := by simpa [hr] using hr'
        exact hq
      · obtain ⟨r', hr', hq, -⟩ := queued_of_mem (h.stands i) hi
        obtain rfl : r = r' := by simpa [hr] using hr'
        exact hq
    exact hqp (hq.symm.trans hp)
  have hkeep {q : Station} (hqp : q ≠ p) (c : Cls) : look2 t.tx.queues q c = look2 s.tx.queues q c ∧
      look2 t.tx.flights q c = look2 s.tx.flights q c ∧ look2 t.tx.counters q c = look2 s.tx.counters q c := by
    obtain ⟨hq, hf, hc, -⟩ := keep q hqp
    simp only [look2, hq, hf, hc, and_self]
  refine h.finished (status := .dropped) (reason := reason) nodup (fun i hi => ?_) hslot hcompletions (fun q c => ?_) (fun q c => ?_) sending (fun q c => ?_)
    (fun q hq => ?_)
  · obtain ⟨r, hr, -, hlive⟩ := live i hi
    have hlawful : r.lawful = true := by simpa [hr, TxSlot.isLawful] using h.records i
    exact ⟨r, hr, hlive, lawful_dropped hlawful hlive notNone, hdone i hi r ((slot_iff _ _ _).mpr hr)⟩
  · by_cases hqp : q = p
    · subst hqp
      exact queues c
    · rw [(hkeep hqp c).1]
      exact ⟨h.distinct.queues q c, fun i => ⟨fun hi => ⟨hi, hdest hqp (.inr hi)⟩, And.left⟩⟩
  · by_cases hqp : q = p
    · subst hqp
      rw [flights]
      refine ⟨List.nodup_nil, fun i => ⟨fun hi => absurd hi (by simp), fun hi => absurd (flying c i hi.1) hi.2⟩⟩
    · rw [(hkeep hqp c).2.1]
      exact ⟨h.distinct.flights q c, fun i => ⟨fun hi => ⟨hi, hdest hqp (.inl hi)⟩, And.left⟩⟩
  · by_cases hqp : q = p
    · subst hqp
      have hzero : look2 t.tx.counters q c = .zero := zero.1 c
      refine ⟨?_, ?_, fun _ => hzero⟩ <;> rw [hzero]
      · rw [flights]
        rfl
      · exact inRange_zero
    · exact Numbers.keep (h.numbers q c) (hkeep hqp c).2.1 (hkeep hqp c).2.2
        (fun i hi => seqOf_congr (hslot i (hdest hqp (.inl hi)))) fun hn => (others q hqp).symm.trans hn
  · by_cases hqp : q = p
    · subst hqp
      rw [zero.2.1] at hq
      exact absurd hq (by simp [Timer.isRunning])
    · obtain ⟨-, -, -, ha, -⟩ := keep q hqp
      rw [ha] at hq
      obtain ⟨c, hc⟩ := h.timers q hq
      exact ⟨c, by rw [(hkeep hqp c).2.1]; exact hc⟩

/-- A close other than RESTART: everything for `p` is DROPPED (R105). -/
theorem TransmitUnit.Lawful.closePeer {s t : State} {p : Station} {reason : CloseReason} {o' : Station → Bool}
    (h : s.tx.Lawful o) (notRestart : reason ≠ .restart) (notNone : reason ≠ .none) (others : ∀ q, q ≠ p → o' q = o q)
    (ht : t.tx = s.tx.closePeer p reason) : t.tx.Lawful o' := by
  obtain ⟨hdone, hlists, hzero, hkeep, hsending, -, -⟩ := closePeer_closes notRestart ht
  have hmem {i : TxIx} {c : Cls} : i ∈ s.tx.doomedIn p c ↔
      i ∈ look2 s.tx.flights p c ∨ (s.tx.sending = some i ∧ s.tx.isFor p c i = true) ∨ i ∈ look2 s.tx.queues p c := by
    simp only [TransmitUnit.doomedIn, List.mem_append, Option.mem_toList, Option.filter_eq_some_iff,
      or_assoc]
  have hlive {i : TxIx} {c : Cls} (hi : i ∈ s.tx.doomedIn p c) :
      ∃ r, look s.tx.pool i = .held r ∧ r.destination = p ∧ r.cls = c ∧ r.IsOpen := by
    obtain hi | ⟨hi, hfor⟩ | hi := hmem.mp hi
    · obtain ⟨r, q, hr, hp, hc, hq⟩ := inFlight_of_mem (h.stands i) hi
      exact ⟨r, hr, hp, hc, fun st re => by simp [hq]⟩
    · obtain ⟨r, hr, hp, hc⟩ := isFor_iff.mp hfor
      obtain ⟨r', hr', hs⟩ := sending_of_eq (h.stands i) hi
      obtain rfl : r = r' := by simpa [hr] using hr'
      exact ⟨r, hr, hp, hc, fun st re => by simp [hs]⟩
    · obtain ⟨r, hr, hp, hc, hq⟩ := queued_of_mem (h.stands i) hi
      exact ⟨r, hr, hp, hc, fun st re => by simp [hq]⟩
  have hin {i : TxIx} : i ∈ s.doomed p ↔ ∃ c, i ∈ s.tx.doomedIn p c := by
    simp only [State.doomed, TransmitUnit.doomedIn, List.mem_flatMap, mem_classes, true_and]
  have heach (c : Cls) : (s.tx.doomedIn p c).Nodup := by
    refine List.nodup_append'.mpr ⟨List.nodup_append'.mpr ⟨h.distinct.flights p c, ?_, ?_⟩, h.distinct.queues p c, ?_⟩
    · cases s.tx.sending.filter (s.tx.isFor p c) <;> simp
    · intro i hf hs
      simp only [Option.mem_toList, Option.filter_eq_some_iff] at hs
      obtain ⟨r, hr, hsend⟩ := sending_of_eq (h.stands i) hs.1
      exact ((stands_sending hr hsend).mp (h.stands i)).2.1 p c hf
    · intro i hi hq
      obtain ⟨r, hr, -, -, hqueued⟩ := queued_of_mem (h.stands i) hq
      obtain ⟨-, hf, hs, -⟩ := (stands_queued hr hqueued).mp (h.stands i)
      simp only [List.mem_append, Option.mem_toList, Option.filter_eq_some_iff] at hi
      exact hi.elim (hf p c) fun hi => hs hi.1
  refine h.closedBy notNone others hdone ?_ (fun i hi => ?_) (fun c i hi => ?_) (fun c => ?_) (fun c => (hlists c).2) hzero
    hkeep fun i => ?_
  · refine nodup_classes heach fun c d i hc hd => ?_
    obtain ⟨r, hr, -, hc, -⟩ := hlive (i := i) (c := c) hc
    obtain ⟨r', hr', -, hd, -⟩ := hlive (i := i) (c := d) hd
    obtain rfl : r = r' := by simpa [hr] using hr'
    exact hc.symm.trans hd
  · obtain ⟨c, hc⟩ := hin.mp hi
    obtain ⟨r, hr, hp, -, hl⟩ := hlive hc
    exact ⟨r, hr, hp, hl⟩
  · exact hin.mpr ⟨c, hmem.mpr (.inl hi)⟩
  · rw [(hlists c).1]
    exact ⟨List.nodup_nil, fun i => ⟨fun hi => absurd hi (by simp),
      fun hi => absurd (hin.mpr ⟨c, hmem.mpr (.inr (.inr hi.1))⟩) hi.2⟩⟩
  · rw [hsending, Option.filter_eq_some_iff]
    refine and_congr_right fun hi => ?_
    rw [hin]
    constructor
    · rintro hno ⟨c, hc⟩
      obtain ⟨r, hr, hp, hc, -⟩ := hlive hc
      have : classes.any (fun c => s.tx.isFor p c i) = true :=
        List.any_eq_true.mpr ⟨c, mem_classes c, isFor_iff.mpr ⟨r, hr, hp, hc⟩⟩
      simp [this] at hno
    · intro hno
      rw [Bool.not_eq_true', List.any_eq_false]
      exact fun c _ hfor => hno ⟨c, hmem.mpr (.inr (.inl ⟨hi, hfor⟩))⟩

/-- A RESTART close, nothing SENDING: what is in flight to `p` is DROPPED, what is queued stays (R107). -/
theorem TransmitUnit.Lawful.restartPeer {s t : State} {p : Station} {o' : Station → Bool} (h : s.tx.Lawful o)
    (idle : s.tx.sending = none) (others : ∀ q, q ≠ p → o' q = o q) (ht : t.tx = s.tx.closePeer p .restart) :
    t.tx.Lawful o' := by
  obtain ⟨hdone, -, hlists, hzero, hkeep, hsending, -, -⟩ :=
    closePeer_restarts (s := s) (fun i hi => absurd hi (by simp [idle])) ht
  rw [idle] at hdone hsending
  have hin {i : TxIx} : i ∈ s.flying p ↔ ∃ c, i ∈ look2 s.tx.flights p c := by
    simp only [State.flying, List.mem_flatMap, mem_classes, true_and]
  refine h.closedBy (by simp) others hdone
    (nodup_classes (h.distinct.flights p) fun c d i hc hd => (h.flight_unique hc hd).2) (fun i hi => ?_)
    (fun c i hi => hin.mpr ⟨c, hi⟩) (fun c => ?_) (fun c => (hlists c).2) hzero hkeep fun i => ?_
  · obtain ⟨c, hc⟩ := hin.mp hi
    obtain ⟨r, q, hr, hp, -, hq⟩ := inFlight_of_mem (h.stands i) hc
    exact ⟨r, hr, hp, fun st re => by simp [hq]⟩
  · rw [(hlists c).1, idle]
    refine ⟨h.distinct.queues p c, fun i => ⟨fun hi => ⟨hi, fun hm => ?_⟩, And.left⟩⟩
    obtain ⟨d, hd⟩ := hin.mp hm
    obtain ⟨r, hr, -, -, hq⟩ := queued_of_mem (h.stands i) hi
    exact ((stands_queued hr hq).mp (h.stands i)).2.1 p d hd
  · simp [hsending, idle]

end

end Sys2Proof.Machine

/-! PROOFS. Every move keeps the laws of the send side: the accounting of the unit, the tie of the MESSAGE in hand, and the
records a COMPLETIONS has still to clock out (R68 to R74, R77, R80, R86, R88, R90, R101, R106, R114). -/

namespace Sys2Proof.Machine

/-! ## Outside ACTIVE every entry is ABSENT -/

/-- The quiet law rests on the station state and the entries' states. -/
theorem quietLaw_same {s t : State} (h : QuietLaw s) (station : t.control.station = s.control.station)
    (states : ∀ p, (t.entry p).state = (s.entry p).state) : QuietLaw t := fun hn p => by
  rw [station] at hn
  rw [states]
  exact h hn p

/-- A live entry is that of an ACTIVE station (R7, R159). -/
theorem quietLaw_live {s : State} {p : Station} (h : QuietLaw s) (live : (s.entry p).state ≠ .absent) :
    s.control.station = .active := by
  by_contra hn
  exact live (h hn p)

/-- Every move keeps the quiet law (R7, R159). -/
theorem quietLaw_move (s t : State) (h : QuietLaw s) (move : Move s t) : QuietLaw t := by
  cases move with
  | port _ _ => exact h
  | control station _ _ => exact quietLaw_same h station fun _ => rfl
  | @entry p f may =>
    refine quietLaw_same h rfl fun q => ?_
    rw [entry_of_put (s := s) (t := s.setEntry p f) rfl]
    split
    next hq => rw [may.state, hq]
    next => rfl
  | arb _ => exact h
  | line => exact h
  | errors _ => exact h
  | tx _ => exact h
  | @freshJoining p _ _ may =>
    have hactive := may.elim (·.1) fun hl => quietLaw_live h (p := p) (by simp [hl])
    exact fun hn => absurd hactive hn
  | @openSession p joining _ _ => exact fun hn => absurd (quietLaw_live h (p := p) (by simp [joining])) hn
  | closeSession live _ _ => exact fun hn => absurd (quietLaw_live h live) hn
  | @restart p _ opened _ => exact fun hn => absurd (quietLaw_live h (p := p) (by simp [opened])) hn
  | accept _ _ => exact h
  | @release c i _ =>
    obtain ⟨hcontrol, hsession, -⟩ := releaseSlot_spec (s.dequeue c i) i
    exact quietLaw_same h (congrArg _ hcontrol) fun p => congrArg _ (entry_of_same (s := s) hsession p)
  | pop _ => exact h
  | @config image r _ station =>
    have habsent := h (by obtain hst | ⟨hst, -⟩ := station <;> simp [hst])
    intro _ p
    simp only [State.entry, applyConfig_session]
    split
    · rw [look_put]
      split
      next => rfl
      next => exact habsent p
    · exact habsent p
  | start _ => exact fun hn => absurd rfl hn
  | leave absent _ => exact fun _ => absent
  | drained leaving _ =>
    have hsession : (s.setStation .configured).goSilent.idleEnded.session = s.session := goSilent_session _
    intro _ p
    rw [entry_of_same hsession]
    exact h (by simp [leaving]) p
  | @mute n absent _ _ =>
    intro _ p
    rw [entry_of_same (goSilent_session _)]
    exact absent p
  | build _ _ => exact h
  | lose _ => exact h
  | won _ _ => exact h
  | completed transmitting =>
    rw [frameCompletedEffect_transmitting transmitting]
    exact h
  | aborted _ => exact h
  | marked _ _ => exact h
  | draw => exact h
  | countDown =>
    have he (p : Station) : s.countDown.entry p = (s.entry p).tick := by simp [State.entry]
    exact quietLaw_same h rfl fun p => by rw [he]; rfl

/-! ## The tie of the MESSAGE in hand -/

/-- A withdrawn frame is of the kind it was (R118). -/
theorem kind_withdrawn {o : Option InHand} {P : HandKind → Prop} [DecidablePred P] :
    (o.map fun h => if P h.kind then { h with withdrawn := true } else h).map (·.kind) = o.map (·.kind) := by
  rw [Option.map_map]
  congr 1
  funext h
  simp only [Function.comp]
  split <;> rfl

/-- What a tie is to its slot and its frame (R74, R90, R114). -/
structure State.Tied (s : State) (x : Tie) : Prop where
  onLine : s.line.state = .contending ∨ s.line.state = .transmitting
  hand : s.arb.inHand.map (·.kind) = some (.message x.peer)
  opened : s.isOpen x.peer = true
  isFor : s.tx.isFor x.peer x.cls x.slot = true
  first : x.first = true → s.line.state = .contending →
    s.tx.sending = some x.slot ∧ x.seq = (look2 s.tx.counters x.peer x.cls).next ∧ 0 < s.tx.credit x.peer x.cls
  carries : ¬(x.first = true ∧ s.line.state = .contending) → s.tx.carries x.seq x.slot = true

/-- The laws of the send side, with the peers that are OPEN and the line. -/
structure SendSide (s : State) : Prop where
  unit : s.tx.Lawful s.isOpen
  tied : ∀ x ∈ s.tx.tie, s.Tied x
  sending : ∀ i ∈ s.tx.sending, s.line.state = .contending ∧ ∃ x ∈ s.tx.tie, x.first = true ∧ x.slot = i

theorem sendSide_iff (s : State) :
    SendSide s ↔ SlotLaw s ∧ SendLaw s ∧ TieLaw s ∧ RecordLaw s ∧ AckTimerLaw s := by
  have htie : TieLaw s ↔ (∀ x ∈ s.tx.tie, s.Tied x) ∧
      ∀ i ∈ s.tx.sending, s.line.state = .contending ∧ ∃ x ∈ s.tx.tie, x.first = true ∧ x.slot = i := by
    refine and_congr (forall₂_congr fun x _ => ?_) (forall₂_congr fun i _ => and_congr_right fun _ => ?_)
    · constructor
      · rintro ⟨h1, h2, h3, h4, h5⟩
        exact ⟨h1, h2, h3, h4, fun hf hc => by rwa [if_pos ⟨hf, hc⟩] at h5, fun hn => by rwa [if_neg hn] at h5⟩
      · rintro ⟨h1, h2, h3, h4, h5, h6⟩
        refine ⟨h1, h2, h3, h4, ?_⟩
        split
        next hc => exact h5 hc.1 hc.2
        next hn => exact h6 hn
    · cases s.tx.tie <;> simp
  have hunit := lawful_iff s
  constructor
  · rintro ⟨hu, ht, hs⟩
    obtain ⟨h1, h2, h3, h4⟩ := hunit.mp hu
    exact ⟨h1, h2, htie.mpr ⟨ht, hs⟩, h3, h4⟩
  · rintro ⟨h1, h2, h3, h4, h5⟩
    obtain ⟨ht, hs⟩ := htie.mp h3
    exact ⟨hunit.mpr ⟨h1, h2, h4, h5⟩, ht, hs⟩

section Side
variable {s t : State}

/-- More peers OPEN: the counters of the others stand at zero as before. -/
theorem TransmitUnit.Lawful.mono {tx : TransmitUnit} {o o' : Station → Bool} (h : tx.Lawful o)
    (opens : ∀ p, o p = true → o' p = true) : tx.Lawful o' :=
  ⟨h.distinct, h.stands, fun p c => Numbers.keep (h.numbers p c) rfl rfl (fun _ _ => rfl) fun hn =>
    Bool.eq_false_iff.mpr fun ho => Bool.eq_false_iff.mp hn (opens p ho), h.records, h.timers⟩

/-- Nothing tied and nothing SENDING: the tie has nothing to keep. -/
theorem SendSide.untied (unit : t.tx.Lawful t.isOpen) (tie : t.tx.tie = none) (sending : t.tx.sending = none) :
    SendSide t :=
  ⟨unit, fun x hx => absurd hx (by simp [tie]), fun i hi => absurd hi (by simp [sending])⟩

variable (h : SendSide s)
include h

/-- Without a tie nothing is SENDING (R74). -/
theorem SendSide.idle_of_untied (tie : s.tx.tie = none) : s.tx.sending = none := by
  cases hs : s.tx.sending with
  | none => rfl
  | some i =>
    obtain ⟨-, x, hx, -⟩ := h.sending i hs
    simp [tie] at hx

/-- Off the line nothing is tied and nothing SENDING (R74, R90). -/
theorem SendSide.off_line (contending : s.line.state ≠ .contending) (transmitting : s.line.state ≠ .transmitting) :
    s.tx.tie = none ∧ s.tx.sending = none := by
  have htie : s.tx.tie = none := by
    cases hx : s.tx.tie with
    | none => rfl
    | some x => exact absurd (h.tied x hx).onLine (not_or.mpr ⟨contending, transmitting⟩)
  exact ⟨htie, h.idle_of_untied htie⟩

/-- With no peer OPEN nothing is tied. -/
theorem SendSide.none_open (closed : ∀ p, s.isOpen p = false) : s.tx.tie = none ∧ s.tx.sending = none := by
  have htie : s.tx.tie = none := by
    cases hx : s.tx.tie with
    | none => rfl
    | some x => exact absurd (h.tied x hx).opened (by simp [closed])
  exact ⟨htie, h.idle_of_untied htie⟩

/-- A tied slot is SENDING or in flight. -/
theorem SendSide.tied_live {x : Tie} (hx : x ∈ s.tx.tie) :
    ∃ r, look s.tx.pool x.slot = .held r ∧ (r.state = .sending ∨ ∃ q, r.state = .inFlight q) := by
  by_cases hf : x.first = true ∧ s.line.state = .contending
  · obtain ⟨r, hr, hs⟩ := sending_of_eq (h.unit.stands x.slot) ((h.tied x hx).first hf.1 hf.2).1
    exact ⟨r, hr, .inl hs⟩
  · obtain ⟨r, hr, hq⟩ := carries_iff.mp ((h.tied x hx).carries hf)
    exact ⟨r, hr, .inr ⟨_, hq⟩⟩

omit h in
/-- What keeps a tie: its slot, S and the limit of its class, its peer OPEN, the line and the frame in hand. -/
theorem tied_keep {x : Tie} (hx : s.Tied x) (line : t.line.state = s.line.state)
    (kind : t.arb.inHand.map (·.kind) = s.arb.inHand.map (·.kind)) (opened : t.isOpen x.peer = true)
    (slot : look t.tx.pool x.slot = look s.tx.pool x.slot) (sending : s.tx.sending = some x.slot → t.tx.sending = some x.slot)
    (next : (look2 t.tx.counters x.peer x.cls).next = (look2 s.tx.counters x.peer x.cls).next)
    (limit : (look2 t.tx.counters x.peer x.cls).limit = (look2 s.tx.counters x.peer x.cls).limit) : t.Tied x := by
  have hslot : t.tx.slot x.slot = s.tx.slot x.slot := by simp only [TransmitUnit.slot, slot]
  refine ⟨by rw [line]; exact hx.onLine, by rw [kind]; exact hx.hand, opened, ?_, fun hf hc => ?_, fun hn => ?_⟩
  · simp only [TransmitUnit.isFor, hslot]
    exact hx.isFor
  · rw [line] at hc
    obtain ⟨h1, h2, h3⟩ := hx.first hf hc
    refine ⟨sending h1, by rw [next]; exact h2, ?_⟩
    simp only [TransmitUnit.credit, next, limit] at h3 ⊢
    exact h3
  · rw [line] at hn
    simp only [TransmitUnit.carries, hslot]
    exact hx.carries hn

/-- The laws stand where line, hand and tie do, if the unit keeps its own and the tied slot and its numbers. -/
theorem SendSide.keep (unit : t.tx.Lawful t.isOpen) (line : t.line.state = s.line.state)
    (kind : t.arb.inHand.map (·.kind) = s.arb.inHand.map (·.kind)) (opens : ∀ p, s.isOpen p = true → t.isOpen p = true)
    (tie : t.tx.tie = s.tx.tie) (sending : t.tx.sending = s.tx.sending)
    (slots : ∀ x ∈ s.tx.tie, look t.tx.pool x.slot = look s.tx.pool x.slot)
    (counters : ∀ p c, (look2 t.tx.counters p c).next = (look2 s.tx.counters p c).next ∧
      (look2 t.tx.counters p c).limit = (look2 s.tx.counters p c).limit) : SendSide t := by
  refine ⟨unit, fun x hx => ?_, fun i hi => ?_⟩
  · rw [tie] at hx
    have ht := h.tied x hx
    exact tied_keep ht line kind (opens _ ht.opened) (slots x hx) (fun hs => by rw [sending]; exact hs)
      (counters _ _).1 (counters _ _).2
  · rw [sending] at hi
    rw [line, tie]
    exact h.sending i hi

/-- The laws stand where the unit does, if no peer ceases to be OPEN and line and hand stand. -/
theorem SendSide.same (tx : t.tx = s.tx) (line : t.line.state = s.line.state)
    (kind : t.arb.inHand.map (·.kind) = s.arb.inHand.map (·.kind)) (opens : ∀ p, s.isOpen p = true → t.isOpen p = true) :
    SendSide t :=
  h.keep (by rw [tx]; exact h.unit.mono opens) line kind opens (by rw [tx]) (by rw [tx]) (fun _ _ => by rw [tx])
    fun _ _ => by rw [tx]; exact ⟨rfl, rfl⟩

/-- The unit alone may change, if it keeps its own law, the tied slot and its numbers. -/
theorem SendSide.withTx {u : TransmitUnit} (unit : u.Lawful s.isOpen) (tie : u.tie = s.tx.tie)
    (sending : u.sending = s.tx.sending) (slots : ∀ x ∈ s.tx.tie, look u.pool x.slot = look s.tx.pool x.slot)
    (counters : ∀ p c, (look2 u.counters p c).next = (look2 s.tx.counters p c).next ∧
      (look2 u.counters p c).limit = (look2 s.tx.counters p c).limit) : SendSide { s with tx := u } :=
  h.keep (t := { s with tx := u }) unit rfl rfl (fun _ hq => hq) tie sending slots counters

end Side

/-! ## The frames of this station -/

section Frames
variable {s : State} (h : SendSide s)
include h

/-- A build ties a MESSAGE to its slot, where nothing was tied (R74, R90, R114). -/
theorem sendSide_build {ch : Choice} (may : s.maySelect = true) (choice : s.select = some ch) : SendSide (s.build ch) := by
  have hmay : (s.control.station = .active ∨ s.control.station = .leaving) ∧ s.line.state = .idle ∧
      s.line.outbound = none := by simpa [State.maySelect] using may
  obtain ⟨htie, hidle⟩ := h.off_line (by simp [hmay.2.1]) (by simp [hmay.2.1])
  have hoffers := select_offers choice
  have control (hn : s.tx.take ch = { s.tx with tie := none }) : SendSide (s.build ch) := by
    have htx : (s.build ch).tx = { s.tx with tie := none } := hn
    refine .untied ?_ (by rw [htx]) (by rw [htx]; exact hidle)
    rw [htx]
    exact h.unit.retie none
  cases ch with
  | announce => exact control rfl
  | sever p c => exact control rfl
  | join p => exact control rfl
  | tally p => exact control rfl
  | first p c i =>
    have hs : s.sendable p c = some (.first p c i) := hoffers
    obtain ⟨hopen, hhead⟩ : s.isOpen p = true ∧ s.tx.eligibleHead p c = some i := by
      unfold State.sendable at hs
      split at hs
      next ho =>
        split at hs
        · simp at hs
        · obtain ⟨j, hj, he⟩ := Option.map_eq_some_iff.mp hs
          simp only [Choice.first.injEq, true_and] at he
          exact ⟨ho, he ▸ hj⟩
      next => simp at hs
    obtain ⟨hcredit, hhead⟩ : 0 < s.tx.credit p c ∧ (look2 s.tx.queues p c).head? = some i := by
      unfold TransmitUnit.eligibleHead at hhead
      split at hhead
      next he => exact ⟨he.2, hhead⟩
      next => simp at hhead
    have hunit := h.unit.tieFirst hhead hidle
    obtain ⟨r, hr, hp, hc, -⟩ := queued_of_mem (h.unit.stands i) (List.mem_of_head? hhead)
    have hcounters : (s.tx.tieFirst p c i).counters = s.tx.counters := by simp [TransmitUnit.tieFirst]
    refine ⟨hunit, fun x hx => ?_, fun j hj => ?_⟩
    · obtain rfl : ⟨i, p, c, (look2 s.tx.counters p c).next, true⟩ = x := Option.some.inj hx
      refine ⟨.inl rfl, rfl, hopen, isFor_iff.mpr ⟨{ r with state := .sending }, ?_, hp, hc⟩, fun _ _ => ⟨rfl, ?_, ?_⟩,
        fun hn => absurd ⟨rfl, rfl⟩ hn⟩
      · show look (s.tx.tieFirst p c i).pool i = _
        simp [TransmitUnit.tieFirst, hr]
      · show _ = (look2 (s.tx.tieFirst p c i).counters p c).next
        rw [hcounters]
      · show 0 < (s.tx.tieFirst p c i).credit p c
        simp only [TransmitUnit.credit, hcounters]
        exact hcredit
    · obtain rfl : i = j := Option.some.inj hj
      exact ⟨rfl, _, rfl, rfl, rfl⟩
  | resend p c i q =>
    have hs : s.sendable p c = some (.resend p c i q) := hoffers
    obtain ⟨hopen, hdue⟩ : s.isOpen p = true ∧ s.tx.dueSlot p c = some (i, q) := by
      unfold State.sendable at hs
      split at hs
      next ho =>
        split at hs
        next j n hj =>
          simp only [Option.some.injEq, Choice.resend.injEq, true_and] at hs
          exact ⟨ho, by rw [hj, hs.1, hs.2]⟩
        next => simp at hs
      next => simp at hs
    obtain ⟨-, -, hmem, hcarries⟩ := dueSlot_some s p c hdue (by simpa [State.isOpen] using hopen)
    obtain ⟨r, -, hr, hp, hc, -⟩ := inFlight_of_mem (h.unit.stands i) hmem
    refine ⟨h.unit.retie _, fun x hx => ?_, fun j hj => absurd hj ?_⟩
    · obtain rfl : ⟨i, p, c, q, false⟩ = x := Option.some.inj hx
      exact ⟨.inl rfl, rfl, hopen, isFor_iff.mpr ⟨r, hr, hp, hc⟩, fun hf => absurd hf (by simp), fun _ => hcarries⟩
    · rw [show (s.build (.resend p c i q)).tx.sending = s.tx.sending from rfl, hidle]
      simp

/-- The win of the frame in hand: its tied slot is in flight (R91, R92, R95). -/
theorem sendSide_won {u : TransmitUnit} (contending : s.line.state = .contending)
    (taken : (∃ k, u = s.tx.won k) ∨ u = s.tx ∧ ∀ p, s.arb.inHand.map (·.kind) ≠ some (.message p)) :
    SendSide ({ s with tx := u }.setLine .transmitting) := by
  obtain ⟨k, rfl⟩ : ∃ k, u = s.tx.won k := by
    obtain hk | ⟨rfl, hnot⟩ := taken
    · exact hk
    · refine ⟨0, ?_⟩
      cases hx : s.tx.tie with
      | none => simp [TransmitUnit.won, hx]
      | some x => exact absurd (h.tied x hx).hand (hnot x.peer)
  cases hx : s.tx.tie with
  | none =>
    have hu : s.tx.won k = s.tx := by simp [TransmitUnit.won, hx]
    rw [hu]
    exact .untied h.unit hx (h.idle_of_untied hx)
  | some x =>
    have ht := h.tied x hx
    obtain ⟨-, hhand, hopen, hfor, hfirst, hcarries⟩ := ht
    obtain ⟨r, hr, hp, hc⟩ := isFor_iff.mp hfor
    by_cases hf : x.first = true
    · obtain ⟨hsending, hseq, hcredit⟩ := hfirst hf contending
      have hu : s.tx.won k = s.tx.winFirst x k := by simp [TransmitUnit.won, hx, hf]
      have hself : look (s.tx.winFirst x k).pool x.slot =
          .held { r with state := .inFlight (look2 s.tx.counters x.peer x.cls).next, transmitCount := 1 } := by
        simp [TransmitUnit.winFirst, hr]
      have htie : (s.tx.winFirst x k).tie = some x := by simp [TransmitUnit.winFirst, hx]
      rw [hu]
      refine ⟨h.unit.winFirst k hopen hfor hsending hcredit, fun y hy => ?_, fun i hi => absurd hi ?_⟩
      · obtain rfl : x = y := Option.some.inj (htie.symm.trans hy)
        exact ⟨.inr rfl, hhand, hopen, isFor_iff.mpr ⟨_, hself, hp, hc⟩, fun _ hl => absurd hl (by simp),
          fun _ => carries_iff.mpr ⟨_, hself, by rw [hseq]⟩⟩
      · simp [TransmitUnit.winFirst]
    · have hcarries := hcarries fun hn => hf hn.1
      have hu : s.tx.won k = s.tx.winResend x k := by simp [TransmitUnit.won, hx, hf]
      obtain ⟨r', hr', hstate⟩ := carries_iff.mp hcarries
      obtain rfl : r = r' := by simpa [hr] using hr'
      have hself : look (s.tx.winResend x k).pool x.slot =
          .held { r with transmitCount := min Config.maxTransmitCount (r.transmitCount + 1) } := by
        simp [TransmitUnit.winResend, hr]
      have htie : (s.tx.winResend x k).tie = some x := by simp [TransmitUnit.winResend, hx]
      have hidle : s.tx.sending = none := by
        cases hs : s.tx.sending with
        | none => rfl
        | some i =>
          obtain ⟨-, y, hy, hyf, -⟩ := h.sending i hs
          obtain rfl : x = y := Option.some.inj (hx.symm.trans hy)
          exact absurd hyf hf
      rw [hu]
      refine ⟨h.unit.winResend k hopen hfor hcarries, fun y hy => ?_, fun i hi => absurd hi ?_⟩
      · obtain rfl : x = y := Option.some.inj (htie.symm.trans hy)
        exact ⟨.inr rfl, hhand, hopen, isFor_iff.mpr ⟨_, hself, hp, hc⟩, fun hn => absurd hn hf,
          fun _ => carries_iff.mpr ⟨_, hself, hstate⟩⟩
      · simp [TransmitUnit.winResend, hidle]

/-- The loss of the frame in hand: a first transmission is queued again (R93, R95). -/
theorem sendSide_lose (contending : s.line.state = .contending) {phase : ReadPhase} : SendSide (s.loseFrame phase) := by
  have htx : (s.loseFrame phase).tx = s.tx.lost := rfl
  have hopens : (s.loseFrame phase).isOpen = s.isOpen := rfl
  have hlost : s.tx.lost.tie = none ∧ s.tx.lost.sending = none := by
    unfold TransmitUnit.lost
    split
    next hx => exact ⟨hx, h.idle_of_untied hx⟩
    next x hx =>
      split
      next => exact ⟨rfl, rfl⟩
      next hf =>
        refine ⟨rfl, ?_⟩
        cases hs : s.tx.sending with
        | none => rfl
        | some i =>
          obtain ⟨-, y, hy, hyf, -⟩ := h.sending i hs
          obtain rfl : x = y := Option.some.inj (hx.symm.trans hy)
          exact absurd hyf hf
  refine .untied ?_ (by rw [htx]; exact hlost.1) (by rw [htx]; exact hlost.2)
  rw [htx, hopens]
  exact h.unit.lost fun x hx => ⟨(h.tied x hx).isFor, fun hf => ((h.tied x hx).first hf contending).1⟩

/-- A frame on the line is no SENDING slot's. -/
theorem SendSide.transmitting_idle (transmitting : s.line.state = .transmitting) : s.tx.sending = none := by
  cases hs : s.tx.sending with
  | none => rfl
  | some i => exact absurd (h.sending i hs).1 (by simp [transmitting])

/-- The abort of the frame on the line (R94, R95). -/
theorem sendSide_aborted (transmitting : s.line.state = .transmitting) :
    SendSide (s.abortedNotice.emptyBuffer.setLine (.receiving .gap)) := by
  have htx : (s.abortedNotice.emptyBuffer.setLine (.receiving .gap)).tx = s.tx.aborted := rfl
  have hopens : (s.abortedNotice.emptyBuffer.setLine (.receiving .gap)).isOpen = s.isOpen := rfl
  have hidle := h.transmitting_idle transmitting
  have haborted : s.tx.aborted.tie = none ∧ s.tx.aborted.sending = none := by
    unfold TransmitUnit.aborted
    split
    next hx => exact ⟨hx, hidle⟩
    next => exact ⟨rfl, hidle⟩
  refine .untied ?_ (by rw [htx]; exact haborted.1) (by rw [htx]; exact haborted.2)
  rw [htx, hopens]
  refine h.unit.aborted fun x hx => ⟨(h.tied x hx).opened, (h.tied x hx).isFor, (h.tied x hx).carries fun hn => ?_⟩
  exact absurd hn.2 (by simp [transmitting])

/-- A close other than RESTART: the tie to a slot of the peer goes with it (R90, R105). -/
theorem sendSide_closeSession {p : Station} {reason : CloseReason} (notRestart : reason ≠ .restart)
    (notNone : reason ≠ .none) : SendSide (s.closeSession reason p) := by
  have hput := closeSession_session s reason p
  have hopen := isOpen_of_put hput
  have htx : (s.closeSession reason p).tx = s.tx.closePeer p reason := rfl
  obtain ⟨⟨-, hdone, hsame⟩, hlists, hzero, hkeep, hsending, htie, -⟩ := closePeer_closes notRestart htx
  have hkept {x : Tie} (hx : x ∈ s.tx.tie) (hp : x.peer ≠ p) : x ∈ (s.closeSession reason p).tx.tie := by
    rw [htie]
    exact Option.filter_eq_some_iff.mpr ⟨hx, by simpa using hp⟩
  refine ⟨h.unit.closePeer notRestart notNone hopen.2 htx, fun x hx => ?_, fun i hi => ?_⟩
  · rw [htie] at hx
    obtain ⟨hx, hp⟩ := Option.filter_eq_some_iff.mp hx
    have hp : x.peer ≠ p := by simpa using hp
    have ht := h.tied x hx
    obtain ⟨r, hr, hdest, hcls⟩ := isFor_iff.mp ht.isFor
    have hout : x.slot ∉ s.doomed p := by
      intro hm
      obtain ⟨c, -, hc⟩ := List.mem_flatMap.mp hm
      simp only [List.mem_append, Option.mem_toList, Option.filter_eq_some_iff] at hc
      have hdest' : r.destination = p := by
        obtain (hc | ⟨-, hc⟩) | hc := hc
        · obtain ⟨r', -, hr', hp', -⟩ := inFlight_of_mem (h.unit.stands _) hc
          obtain rfl : r = r' := by simpa [hr] using hr'
          exact hp'
        · obtain ⟨r', hr', hp', -⟩ := isFor_iff.mp hc
          obtain rfl : r = r' := by simpa [hr] using hr'
          exact hp'
        · obtain ⟨r', hr', hp', -⟩ := queued_of_mem (h.unit.stands _) hc
          obtain rfl : r = r' := by simpa [hr] using hr'
          exact hp'
      exact hp (hdest.symm.trans hdest')
    obtain ⟨-, -, hcounters, -, -⟩ := hkeep x.peer hp
    have hc : look2 (s.closeSession reason p).tx.counters x.peer x.cls = look2 s.tx.counters x.peer x.cls := by
      simp only [look2, hcounters]
    refine tied_keep ht rfl (by rw [closeSession_arb, closePeer_claims]; exact kind_withdrawn (P := fun k => k = .join p ∨ k = .tally p)) (by rw [hopen.2 _ hp]; exact ht.opened)
      (hsame x.slot hout (by simp)) (fun hs => ?_) (by rw [hc]) (by rw [hc])
    rw [hsending, hs, Option.filter_eq_some_iff]
    refine ⟨rfl, ?_⟩
    rw [Bool.not_eq_true', List.any_eq_false]
    intro c _ hfor
    obtain ⟨r', hr', hp', -⟩ := isFor_iff.mp hfor
    obtain rfl : r = r' := by simpa [hr] using hr'
    exact hp (hdest.symm.trans hp')
  · rw [hsending] at hi
    obtain ⟨hi, hnot⟩ := Option.filter_eq_some_iff.mp hi
    obtain ⟨hline, x, hx, hf, rfl⟩ := h.sending i hi
    refine ⟨hline, x, hkept hx fun hp => ?_, hf, rfl⟩
    have hfor := (h.tied x hx).isFor
    rw [hp] at hfor
    rw [Bool.not_eq_true', List.any_eq_false] at hnot
    exact hnot x.cls (mem_classes _) hfor

end Frames

/-- Going SILENT with nothing tied leaves the Transmit Unit (R95, R130). -/
theorem goSilent_tx {s : State} (untied : s.tx.tie = none) : s.goSilent.tx = s.tx := by
  unfold State.goSilent
  cases s.line.state with
  | contending => simp [TransmitUnit.lost, untied]
  | transmitting => simp [TransmitUnit.aborted, untied]
  | _ => rfl

/-! ## Every move -/

/-- Every move keeps the laws of the send side, with those of the line and the sessions beside it. -/
theorem sendSide_move (s t : State) (quiet : QuietLaw s) (line : LineLaw s) (h : SendSide s) (move : Move s t) :
    SendSide t := by
  have same {t : State} (tx : t.tx = s.tx) (hline : t.line = s.line) (arb : t.arb = s.arb) (session : t.session = s.session) :
      SendSide t :=
    h.same tx (by rw [hline]) (by rw [arb]) fun p hp => by
      simp only [State.isOpen, entry_of_same session] at hp ⊢
      exact hp
  have closed (absent : ∀ p, (s.entry p).state = .absent) (p : Station) : s.isOpen p = false := by
    simp [State.isOpen, absent p]
  have silent (hs : s.line.state = .silent) : s.tx.tie = none ∧ s.tx.sending = none :=
    h.off_line (by simp [hs]) (by simp [hs])
  cases move with
  | port _ _ => exact same rfl rfl rfl rfl
  | control _ _ _ => exact same rfl rfl rfl rfl
  | @entry p f may =>
    refine h.same rfl rfl rfl fun q hq => ?_
    have hopen := isOpen_of_put (s := s) (t := s.setEntry p f) (p := p) (e := f) rfl
    obtain rfl | hqp := eq_or_ne q p
    · rw [hopen.1, may.state]; exact hq
    · rw [hopen.2 q hqp]; exact hq
  | arb may => exact h.same rfl rfl may.kind fun _ hq => hq
  | line before after _ _ _ _ =>
    obtain ⟨htie, hidle⟩ := h.off_line (by rintro hl; simp [hl, LineState.isListening] at before)
      (by rintro hl; simp [hl, LineState.isListening] at before)
    exact .untied h.unit htie hidle
  | errors _ => exact h.same rfl rfl rfl fun _ hq => hq
  | tx move =>
    cases move with
    | @enqueue i p c hostTag payload free min max =>
      refine h.withTx (h.unit.enqueue free min max) rfl rfl (fun x hx => ?_) fun _ _ => ⟨rfl, rfl⟩
      obtain ⟨r, hr, -⟩ := h.tied_live hx
      have hne : i ≠ x.slot := fun e => by rw [e, hr] at free; exact TxSlot.noConfusion free
      simp [TransmitUnit.enqueue, look_put_ne _ _ hne]
    | @withdraw p i r held dest queued =>
      have hfield {α : Type} (f : TransmitUnit → α)
          (hf : ∀ u pool queues completions, f { u with pool := pool, queues := queues, completions := completions } = f u) :
          f (s.tx.withdraw p r.cls i) = f s.tx := by
        simp only [TransmitUnit.withdraw, TransmitUnit.finish, TransmitUnit.unqueue, changeSlot_eq]
        exact hf _ _ _ _
      refine h.withTx (h.unit.withdraw held dest queued) (hfield (·.tie) fun _ _ _ _ => rfl)
        (hfield (·.sending) fun _ _ _ _ => rfl) (fun x hx => ?_) fun q d => ?_
      · obtain ⟨r', hr, hlive⟩ := h.tied_live hx
        have hne : i ≠ x.slot := by
          rintro rfl
          obtain rfl : r = r' := by simpa [held] using hr
          obtain hs | ⟨q, hs⟩ := hlive <;> simp [queued] at hs
        simp [TransmitUnit.withdraw, TransmitUnit.finish, TransmitUnit.unqueue, look_put_ne _ _ hne]
      · have hc : (s.tx.withdraw p r.cls i).counters = s.tx.counters := hfield (·.counters) fun _ _ _ _ => rfl
        simp only [hc, and_self]
    | @tally p pairs k opened valid gap =>
      obtain ⟨htie, hidle⟩ := h.off_line (by simp [gap]) (by simp [gap])
      obtain ⟨-, -, -, -, hsending, htie', -⟩ := applyTally_spec s.tx p pairs k
        fun c d hcd i hi hi' => hcd (h.unit.flight_unique hi hi').2
      exact .untied (h.unit.applyTally k (by simp [State.isOpen, opened]) valid) (htie'.trans htie) (hsending.trans hidle)
    | @retry p =>
      obtain ⟨hcounters, -⟩ := retry_spec (s.tx.stopAck p) p
      have hpool := retry_field (·.pool) (fun _ _ _ => rfl) (s.tx.stopAck p) p
      refine h.withTx ((h.unit.stopAck p).retry p)
        (retry_field (·.tie) (fun _ _ _ => rfl) (s.tx.stopAck p) p)
        (retry_field (·.sending) (fun _ _ _ => rfl) (s.tx.stopAck p) p)
        (fun x _ => congrArg (look · x.slot) hpool) fun q d => ?_
      simp only [hcounters]
      split
      next hq => rw [hq.1]; exact ⟨rfl, rfl⟩
      next => exact ⟨rfl, rfl⟩
    | @stopAck p =>
      exact h.withTx (h.unit.stopAck p) rfl rfl (fun _ _ => rfl) fun _ _ => ⟨rfl, rfl⟩
  | @freshJoining p tag notOpen _ =>
    refine h.same rfl rfl rfl fun q hq => ?_
    have hopen := isOpen_of_put (freshJoining_session s p tag)
    obtain rfl | hqp := eq_or_ne q p
    · exact absurd (by simpa [State.isOpen] using hq) notOpen
    · rw [hopen.2 q hqp]; exact hq
  | @openSession p _ _ _ =>
    refine h.same rfl rfl ?_ fun q hq => ?_
    · rw [openSession_arb]
      exact kind_withdrawn (P := (· = .join p))
    · have hopen := isOpen_of_put (openSession_session s p)
      obtain rfl | hqp := eq_or_ne q p
      · exact hopen.1
      · rw [hopen.2 q hqp]; exact hq
  | closeSession _ notRestart notNone => exact sendSide_closeSession h notRestart notNone
  | @restart p tag _ gap =>
    obtain ⟨htie, hidle⟩ := h.off_line (by simp [gap]) (by simp [gap])
    have htx : (s.restartSession p tag).tx = s.tx.closePeer p .restart := rfl
    obtain ⟨-, -, -, -, -, hsending, htie', -⟩ :=
      closePeer_restarts (s := s) (fun i hi => absurd hi (by simp [hidle])) htx
    refine .untied (h.unit.restartPeer hidle (fun q hq => ?_) htx) (by rw [htie', htie]; rfl) (by rw [hsending, hidle]; rfl)
    rw [State.restartSession, (isOpen_of_put (freshJoining_session _ p tag)).2 q hq,
      (isOpen_of_put (closeSession_session s .restart p)).2 q hq]
  | accept _ _ => exact same rfl rfl rfl rfl
  | @release c i _ =>
    obtain ⟨-, hsession, harb⟩ := releaseSlot_spec (s.dequeue c i) i
    have htx : ((s.dequeue c i).releaseSlot i).tx = s.tx := by
      unfold State.releaseSlot
      split
      · rfl
      · simp only []
        split <;> rfl
    refine h.same htx (congrArg (·.state) (releaseSlot_line (s.dequeue c i) i)) ?_ fun p hp => ?_
    · rw [setCommand_arb]
      obtain ha | ⟨p, -, ha⟩ := harb <;> rw [ha] <;> rfl
    · simp only [State.isOpen, entry_of_same (s := s) (t := ((s.dequeue c i).releaseSlot i).setCommand _) hsession]
      exact hp
  | pop _ =>
    have hpop : s.tx.popCompletion.tie = s.tx.tie ∧ s.tx.popCompletion.sending = s.tx.sending ∧
        s.tx.popCompletion.counters = s.tx.counters := by
      unfold TransmitUnit.popCompletion
      split <;> exact ⟨rfl, rfl, rfl⟩
    obtain ⟨htie, hsending, hcounters⟩ := hpop
    refine h.keep h.unit.popCompletion rfl rfl (fun _ hq => hq) htie hsending (fun x hx => ?_) fun p c => ?_
    · obtain ⟨r, hr, hlive⟩ := h.tied_live hx
      show look s.tx.popCompletion.pool x.slot = look s.tx.pool x.slot
      unfold TransmitUnit.popCompletion
      split
      next => rfl
      next i rest hlist =>
        obtain ⟨r', st, re, hr', hdone⟩ := done_of_mem (h.unit.stands i) (by simp [hlist])
        have hne : i ≠ x.slot := by
          rintro rfl
          obtain rfl : r = r' := by simpa [hr] using hr'
          obtain hs | ⟨q, hs⟩ := hlive <;> simp [hdone] at hs
        exact look_put_ne _ _ hne
    · show (look2 s.tx.popCompletion.counters p c).next = _ ∧ (look2 s.tx.popCompletion.counters p c).limit = _
      rw [hcounters]
      exact ⟨rfl, rfl⟩
  | @config image r _ station =>
    have hclosed := closed (quiet (by obtain hst | ⟨hst, -⟩ := station <;> simp [hst]))
    exact h.same rfl rfl rfl fun p hp => absurd hp (by simp [hclosed])
  | start configured =>
    obtain ⟨htie, hidle⟩ := silent (line.1.mpr (by simp [configured]))
    exact .untied h.unit htie hidle
  | leave _ _ =>
    exact h.same rfl rfl (kind_withdrawn (P := (· = .announce))) fun _ hq => hq
  | drained leaving _ =>
    obtain ⟨htie, hidle⟩ := h.none_open (closed (quiet (by simp [leaving])))
    have htx : (s.setStation .configured).goSilent.idleEnded.tx = s.tx := goSilent_tx (s := s.setStation .configured) htie
    refine .untied ?_ (by rw [htx]; exact htie) (by rw [htx]; exact hidle)
    rw [htx]
    refine h.unit.mono fun p hp => ?_
    have hsession : (s.setStation .configured).goSilent.idleEnded.session = s.session := goSilent_session _
    simp only [State.isOpen, entry_of_same hsession] at hp ⊢
    exact hp
  | @mute n absent _ _ =>
    obtain ⟨htie, hidle⟩ := h.none_open (closed absent)
    have htx := goSilent_tx (s := { s.setStation .muted with arb := s.arb.mute, line := { s.line with aborts := n } }) htie
    refine .untied ?_ (by rw [htx]; exact htie) (by rw [htx]; exact hidle)
    rw [htx]
    refine h.unit.mono fun p hp => ?_
    simp only [State.isOpen, entry_of_same (goSilent_session _)] at hp ⊢
    exact hp
  | build may choice => exact sendSide_build h may choice
  | lose contending => exact sendSide_lose h contending
  | won contending taken => exact sendSide_won h contending taken
  | completed transmitting =>
    rw [frameCompletedEffect_transmitting transmitting]
    exact .untied (h.unit.retie none) rfl (h.transmitting_idle transmitting)
  | aborted transmitting => exact sendSide_aborted h transmitting
  | marked _ _ => exact h.same rfl rfl rfl fun _ hq => hq
  | draw => exact same rfl rfl rfl rfl
  | countDown =>
    have he (p : Station) : s.countDown.entry p = (s.entry p).tick := by simp [State.entry]
    have hopen (p : Station) : s.countDown.isOpen p = s.isOpen p := by simp only [State.isOpen, he]; rfl
    refine h.keep ?_ rfl rfl (fun p hp => by rw [hopen]; exact hp) rfl rfl (fun _ _ => rfl) fun _ _ => ⟨rfl, rfl⟩
    have hopens : s.countDown.isOpen = s.isOpen := funext hopen
    rw [hopens]
    exact h.unit.recount rfl rfl rfl rfl rfl (fun _ _ => rfl) (fun p c => (h.unit.numbers p c).inRange)
      (fun p c => (h.unit.numbers p c).closed) fun p hp => h.unit.timers p (by simpa using hp)

/-! ## The records a COMPLETIONS has still to clock out -/

/-- The completion queue may grow while no open transaction fixes more records (R80). -/
theorem completionsLaw_grow {s t : State} (h : CompletionsLaw s)
    (grows : s.tx.completions.length ≤ t.tx.completions.length)
    (left : ∀ x ∈ t.port.txn, ∀ n ∈ x.command.recordsLeft, ∃ y ∈ s.port.txn, n ∈ y.command.recordsLeft) :
    CompletionsLaw t := fun x hx n hn => by
  obtain ⟨y, hy, hn'⟩ := left x hx n hn
  exact (h y hy n hn').trans grows

/-- What an open transaction notes of a peer changes no COMPLETIONS. -/
theorem noteChanged_recordsLeft {s t : State} {p : Station} (port : t.port = s.port.onCommand (.noteChanged p)) :
    ∀ x ∈ t.port.txn, ∀ n ∈ x.command.recordsLeft, ∃ y ∈ s.port.txn, n ∈ y.command.recordsLeft := by
  intro x hx n hn
  rw [port] at hx
  obtain ⟨y, hy, rfl⟩ := Option.map_eq_some_iff.mp hx
  refine ⟨y, hy, ?_⟩
  revert hn
  simp only
  cases y.command <;> simp [TxnCommand.noteChanged, TxnCommand.recordsLeft]

/-- What a win, a loss or an abort does to the Transmit Unit leaves the completion queue (R91 to R95). -/
theorem onLine_completions (tx : TransmitUnit) :
    (∀ k, (tx.won k).completions = tx.completions) ∧ tx.lost.completions = tx.completions ∧
      tx.aborted.completions = tx.completions := by
  refine ⟨fun k => ?_, ?_, ?_⟩
  · unfold TransmitUnit.won
    split
    · rfl
    · split
      · simp [TransmitUnit.winFirst]
      · simp [TransmitUnit.winResend]
  · unfold TransmitUnit.lost
    split
    · rfl
    · split
      · simp
      · rfl
  · unfold TransmitUnit.aborted
    split <;> rfl

theorem goSilent_completions (s : State) : s.goSilent.tx.completions = s.tx.completions := by
  obtain ⟨-, hlost, haborted⟩ := onLine_completions s.tx
  unfold State.goSilent
  cases s.line.state with
  | contending => exact hlost
  | transmitting => exact haborted
  | _ => rfl

/-- Every move keeps the records a COMPLETIONS has still to clock out in the completion queue (R80, R81). -/
theorem completionsLaw_move (s t : State) (side : SendSide s) (h : CompletionsLaw s) (move : Move s t) :
    CompletionsLaw t := by
  have grow {t : State} (grows : s.tx.completions.length ≤ t.tx.completions.length) (port : t.port = s.port) :
      CompletionsLaw t :=
    completionsLaw_grow h grows fun x hx n hn => ⟨x, by rw [port] at hx; exact hx, hn⟩
  have same {t : State} (completions : t.tx.completions = s.tx.completions) (port : t.port = s.port) : CompletionsLaw t :=
    grow (by rw [completions]) port
  cases move with
  | @port p may _ =>
    intro x hx n hn
    obtain ⟨hfits | ⟨y, hy, hxy⟩, -⟩ := may x hx
    · exact hfits.left n hn
    · exact h y hy n (hxy ▸ hn)
  | control _ _ _ => exact h
  | entry _ => exact h
  | arb _ => exact h
  | line => exact h
  | errors _ => exact h
  | tx move =>
    cases move with
    | enqueue _ _ _ => exact same rfl rfl
    | withdraw _ _ _ =>
      refine grow ?_ rfl
      simp [TransmitUnit.withdraw, TransmitUnit.finish, TransmitUnit.unqueue]
    | @tally p pairs k _ _ _ =>
      obtain ⟨hcompletions, -⟩ := applyTally_spec s.tx p pairs k
        fun c d hcd i hi hi' => hcd (side.unit.flight_unique hi hi').2
      exact grow (by simp only [hcompletions, List.length_append]; omega) rfl
    | @retry p => exact same (retry_field (·.completions) (fun _ _ _ => rfl) (s.tx.stopAck p) p) rfl
    | stopAck => exact same rfl rfl
  | freshJoining _ _ => exact same rfl rfl
  | openSession _ _ _ => exact completionsLaw_grow h (Nat.le_refl _) (noteChanged_recordsLeft rfl)
  | @closeSession p reason _ notRestart _ =>
    obtain ⟨⟨hcompletions, -⟩, -⟩ := closePeer_closes (s := s) (t := s.closeSession reason p) notRestart rfl
    exact completionsLaw_grow h (by rw [hcompletions, List.length_append]; omega) (noteChanged_recordsLeft rfl)
  | @restart p tag _ gap =>
    obtain ⟨-, hidle⟩ := side.off_line (by simp [gap]) (by simp [gap])
    obtain ⟨⟨hcompletions, -⟩, -⟩ :=
      closePeer_restarts (s := s) (t := s.restartSession p tag) (fun i hi => absurd hi (by simp [hidle])) rfl
    exact completionsLaw_grow h (by rw [hcompletions, List.length_append]; omega) (noteChanged_recordsLeft rfl)
  | accept _ _ => exact same rfl rfl
  | @release c i _ =>
    intro x hx n hn
    have hport : (((s.dequeue c i).releaseSlot i).setCommand (.take c i true)).port =
        s.port.onCommand fun _ => .take c i true := by rw [setCommand_port, releaseSlot_port]; rfl
    rw [hport] at hx
    obtain ⟨y, hy, rfl⟩ := Option.map_eq_some_iff.mp hx
    simp [TxnCommand.recordsLeft] at hn
  | @pop left command =>
    intro x hx n hn
    obtain ⟨y, hy, rfl⟩ := Option.map_eq_some_iff.mp hx
    obtain rfl : left = n := by simpa [TxnCommand.recordsLeft] using hn
    obtain ⟨z, hz, hcmd⟩ := Option.map_eq_some_iff.mp command
    have hle := h z hz (left + 1) (by simp [hcmd, TxnCommand.recordsLeft])
    show left ≤ s.tx.popCompletion.completions.length
    unfold TransmitUnit.popCompletion
    split
    next hnil => rw [hnil] at hle; simp at hle
    next i rest hlist => rw [hlist] at hle; simpa using hle
  | config _ _ => exact same rfl rfl
  | start _ => exact same rfl rfl
  | leave _ _ => exact same rfl rfl
  | drained _ _ => exact same (goSilent_completions (s.setStation .configured)) (goSilent_port _)
  | mute _ _ _ => exact same (goSilent_completions _) (goSilent_port _)
  | @build ch _ _ =>
    refine same ?_ rfl
    cases ch with
    | first p c i =>
      show (s.tx.tieFirst p c i).completions = _
      simp [TransmitUnit.tieFirst]
    | _ => rfl
  | lose _ => exact same (onLine_completions s.tx).2.1 rfl
  | won _ taken =>
    obtain ⟨k, rfl⟩ | ⟨rfl, -⟩ := taken
    · exact same ((onLine_completions s.tx).1 k) rfl
    · exact same rfl rfl
  | completed transmitting =>
    rw [frameCompletedEffect_transmitting transmitting]
    exact same rfl rfl
  | aborted _ => exact same (onLine_completions s.tx).2.2 rfl
  | marked _ _ => exact h
  | draw => exact h
  | countDown => exact same rfl rfl

/-! ## The statement -/

/-- The laws of the send side as a step keeps them. -/
structure SendLaws (s : State) : Prop where
  quiet : QuietLaw s
  line : LineLaw s
  side : SendSide s
  completions : CompletionsLaw s

theorem sendLaws_iff (s : State) : SendLaws s ↔ TransmitLaws s := by
  have hside := sendSide_iff s
  constructor
  · rintro ⟨hq, hl, hs, hc⟩
    obtain ⟨h1, h2, h3, h4, h5⟩ := hside.mp hs
    exact ⟨hq, hl, h1, h2, h3, h4, h5, hc⟩
  · rintro ⟨hq, hl, h1, h2, h3, h4, h5, hc⟩
    exact ⟨hq, hl, hside.mpr ⟨h1, h2, h3, h4, h5⟩, hc⟩

theorem sendLaws_move (s t : State) (h : SendLaws s) (move : Move s t) : SendLaws t :=
  ⟨quietLaw_move s t h.quiet move, lineLaw_move s t h.line move, sendSide_move s t h.quiet h.line h.side move,
    completionsLaw_move s t h.side h.completions move⟩

/-- The laws of the send side hold after a reset (R85, R89). -/
theorem sendLaws_afterReset (s : State) (rst cs : PinLevel) : SendLaws (s.afterReset rst cs) := by
  have he (p : Station) : (s.afterReset rst cs).entry p = .reset := look_replicate _ _
  have hqueue (p : Station) (c : Cls) : look2 (s.afterReset rst cs).tx.queues p c = [] := look2_replicate _ _ _
  have hflight (p : Station) (c : Cls) : look2 (s.afterReset rst cs).tx.flights p c = [] := look2_replicate _ _ _
  have hcount (p : Station) (c : Cls) : look2 (s.afterReset rst cs).tx.counters p c = .zero := look2_replicate _ _ _
  have hslot (i : TxIx) : look (s.afterReset rst cs).tx.pool i = .free := look_replicate _ _
  have htimer (p : Station) : look (s.afterReset rst cs).tx.ackTimers p = .stopped := look_replicate _ _
  refine ⟨fun _ p => by rw [he]; rfl, (linePortLaws_afterReset s rst cs).1, .untied ⟨⟨fun p c => ?_, fun p c => ?_, ?_⟩,
    fun i => ?_, fun p c => ⟨?_, ?_, fun _ => hcount p c⟩, fun i => ?_, fun p hp => ?_⟩ rfl rfl, fun x hx => ?_⟩
  · rw [hqueue]; exact List.nodup_nil
  · rw [hflight]; exact List.nodup_nil
  · exact List.nodup_nil
  · refine (stands_free (hslot i)).mpr ⟨fun p c => ?_, fun p c => ?_, ?_, ?_⟩
    · rw [hqueue]; exact List.not_mem_nil
    · rw [hflight]; exact List.not_mem_nil
    · simp [TransmitUnit.reset]
    · simp [TransmitUnit.reset]
  · rw [hflight, hcount]; rfl
  · rw [hcount]; exact inRange_zero
  · rw [hslot]; rfl
  · rw [htimer] at hp
    exact absurd hp (by simp [Timer.isRunning])
  · exact absurd hx (by simp [HostPort.reset])

/-- Settles O57: each move on a slot takes it from the list of its old state to that of its new one and moves the counters
with it, and a tie goes with its slot. -/
theorem transmitLawsKept : Obligations.TransmitLawsKept := fun s t hs hstep =>
  (sendLaws_iff t).mp (kept_by_step sendLaws_move (fun _ _ h => ⟨h.quiet, h.line, h.side.same rfl rfl rfl fun _ hq => hq, h.completions⟩)
    sendLaws_afterReset ((sendLaws_iff s).mpr hs) hstep)

end Sys2Proof.Machine

/-! PROOFS. The step and its queue, the time base, and what reset leaves (R161 to R163, R149). -/

namespace Sys2Proof.Machine

/-! ## The queue of commands -/

/-- Settles O1: the step takes the front command off its queue before it runs it. -/
theorem stepRunsFrontCommand : Obligations.StepRunsFrontCommand := fun _ _ _ => rfl

theorem goSilent_pending (s : State) : s.goSilent.pending = s.pending := by
  unfold State.goSilent
  cases s.line.state <;> rfl

/-- No move touches the commands waiting. -/
theorem pending_of_moves {s t : State} (h : Reaches s t) : t.pending = s.pending := by
  refine kept_of_moves (P := fun u => u.pending = s.pending) (fun u v hu move => Eq.trans ?_ hu) h rfl
  cases move with
  | @release c i _ =>
    show ((u.dequeue c i).releaseSlot i).pending = u.pending
    unfold State.releaseSlot
    split
    · rfl
    · simp only []
      split <;> rfl
  | drained _ _ =>
    show (u.setStation .configured).goSilent.pending = u.pending
    exact goSilent_pending _
  | mute _ _ _ => exact goSilent_pending _
  | completed transmitting =>
    rw [frameCompletedEffect_transmitting transmitting]
  | _ => rfl

/-- Every command answers a next state. -/
theorem exec_answers (c : Instr) (s : State) : ∃ t : State, exec c s = .next t := by
  cases c <;> exact ⟨_, rfl⟩

/-- Settles O4: a command is a run of moves or a reset, none of which touches the queue, and it ends with ATTN driven to
the level its conditions and mask give. -/
theorem everyCommandAnswersAndDrivesAttn : Obligations.EveryCommandAnswersAndDrivesAttn := by
  intro c s
  obtain ⟨t, ht⟩ := exec_answers c s
  obtain ⟨u, hu, rfl⟩ := exec_moves ht
  refine ⟨_, ht, ?_, attnLevel_iff u⟩
  obtain hreach | ⟨rst, cs, rfl⟩ := hu
  · show u.pending = s.pending
    exact pending_of_moves hreach
  · rfl

/-! ## The time base -/

/-- Settles O3: a timer of `v` ms starts with `v + 1` ticks to go, each tick takes one, and it is due with none left. -/
theorem timerExpiresAfterInterval : Obligations.TimerExpiresAfterInterval := by
  intro v k hk
  have hdue (n : Nat) : (Timer.running n).due = true ↔ n = 0 := by cases n <;> simp [Timer.due]
  refine ⟨?_, ?_⟩
  · rw [show Timer.start v = .running (v + 1) from rfl, tick_iterate, hdue]
    omega
  · rw [Function.iterate_fixed (show Timer.stopped.tick = .stopped from rfl)]
    rfl

theorem due_iff (t : Timer) : t.due = true ↔ t = .running 0 := by
  cases t with
  | stopped => simp [Timer.due]
  | running n => cases n <;> simp [Timer.due]

/-- The expiries of one tick are those of the timers that have run out. -/
theorem mem_dueExpiries (s : State) (k : Nat) (c : Instr) :
    (k, c) ∈ s.dueExpiries ↔ ∃ p : Station,
      k = p.val ∧ c = .joinTimerExpiry p ∧ (s.entry p).joinTimer = .running 0 ∨
      k = 16 + p.val ∧ c = .holdDownExpiry p ∧ (s.entry p).holdDownTimer = .running 0 ∨
      k = 32 + p.val ∧ c = .silenceExpiry p ∧ (s.entry p).silenceTimer = .running 0 ∨
      k = 48 + p.val ∧ c = .refreshExpiry p ∧ (s.entry p).refreshTimer = .running 0 ∨
      k = 64 + p.val ∧ c = .ackTimerExpiry p ∧ look s.tx.ackTimers p = .running 0 := by
  simp only [State.dueExpiries, List.mem_flatMap, mem_stations, true_and]
  refine exists_congr fun p => ?_
  simp only [State.dueFor, List.mem_filterMap, List.mem_cons, List.not_mem_nil, or_false]
  constructor
  · rintro ⟨⟨n, t, i⟩, h, hi⟩
    simp only [Option.ite_none_right_eq_some, Option.some.injEq, Prod.mk.injEq, due_iff] at hi
    obtain ⟨ht, rfl, rfl⟩ := hi
    simp only [Prod.mk.injEq] at h
    obtain ⟨rfl, rfl, rfl⟩ | ⟨rfl, rfl, rfl⟩ | ⟨rfl, rfl, rfl⟩ | ⟨rfl, rfl, rfl⟩ | ⟨rfl, rfl, rfl⟩ := h <;> simp [ht]
  · rintro (⟨rfl, rfl, ht⟩ | ⟨rfl, rfl, ht⟩ | ⟨rfl, rfl, ht⟩ | ⟨rfl, rfl, ht⟩ | ⟨rfl, rfl, ht⟩)
    · exact ⟨_, .inl rfl, by simp [ht, Timer.due]⟩
    · exact ⟨_, .inr (.inl rfl), by simp [ht, Timer.due]⟩
    · exact ⟨_, .inr (.inr (.inl rfl)), by simp [ht, Timer.due]⟩
    · exact ⟨_, .inr (.inr (.inr (.inl rfl))), by simp [ht, Timer.due]⟩
    · exact ⟨_, .inr (.inr (.inr (.inr rfl))), by simp [ht, Timer.due]⟩

/-- The expiries of `p`'s timers. -/
def expiriesOf (p : Station) : List Instr :=
  [.joinTimerExpiry p, .holdDownExpiry p, .silenceExpiry p, .refreshExpiry p, .ackTimerExpiry p]

theorem dueFor_sublist (s : State) (p : Station) : ((s.dueFor p).map Prod.snd).Sublist (expiriesOf p) := by
  have hsub (l : List (Nat × Timer × Instr)) :
      ((l.filterMap fun (k, t, i) => if t.due then some (16 * k + p.val, i) else none).map Prod.snd).Sublist
        (l.map (·.2.2)) := by
    induction l with
    | nil => exact .slnil
    | cons x l ih =>
      obtain ⟨k, t, i⟩ := x
      by_cases ht : t.due = true
      · simpa [ht] using ih
      · simpa [ht] using ih.cons i
  exact hsub _

/-- Each timer gives one expiry at most. -/
theorem dueExpiries_nodup (s : State) : (s.dueExpiries.map Prod.snd).Nodup := by
  rw [State.dueExpiries, List.map_flatMap]
  have hstations : stations.Nodup := by decide
  refine List.nodup_flatMap.mpr ⟨fun p _ => (dueFor_sublist s p).nodup (by simp [expiriesOf]), ?_⟩
  refine hstations.imp fun {p q} hpq c hp hq => hpq ?_
  have hp := (dueFor_sublist s p).subset hp
  have hq := (dueFor_sublist s q).subset hq
  simp only [expiriesOf, List.mem_cons, List.not_mem_nil, or_false] at hp hq
  obtain rfl | rfl | rfl | rfl | rfl := hp <;> simpa using hq

/-- Settles O2: the tick counts every timer down and queues the expiries of those that have run out, in a drawn order. -/
theorem idleStepIsOneTick : Obligations.IdleStepIsOneTick := by
  intro s idle
  have hstep : step s = .next s.tick := by simp [step, idle]
  obtain ⟨hpending, hrest⟩ : (s.tick.pending.Perm (s.countDown.dueExpiries.map Prod.snd)) ∧
      s.tick = { s.countDown with pending := s.tick.pending, draws := s.tick.draws } := by
    have hidle : s.countDown.pending = [] := idle
    simp only [State.tick]
    split
    next h => exact ⟨by rw [h, hidle]; rfl, rfl⟩
    next h => exact ⟨by rw [hidle]; exact (inDrawnOrder_perm _ _ _).map _, rfl⟩
  refine ⟨s.tick, hstep, fun p => ?_, fun p => ?_, ?_, ?_, ?_, ?_, ?_, ?_, ?_, fun c => ?_⟩
  · rw [hrest]
    exact look_mapAll _ _ _
  · rw [hrest]
    exact look_mapAll _ _ _
  · rw [hrest]; rfl
  · rw [hrest]; rfl
  · rw [hrest]; rfl
  · rw [hrest]; rfl
  · rw [hrest]; rfl
  · rw [hrest]; rfl
  · exact hpending.nodup_iff.mpr (dueExpiries_nodup _)
  · rw [hpending.mem_iff, List.mem_map]
    have hentry (p : Station) : s.tick.entry p = s.countDown.entry p := by rw [hrest]; rfl
    have hack : s.tick.tx = s.countDown.tx := by rw [hrest]
    simp only [hentry, hack]
    constructor
    · rintro ⟨⟨k, i⟩, hk, rfl⟩
      obtain ⟨p, hp⟩ := (mem_dueExpiries _ _ _).mp hk
      exact ⟨p, hp.imp And.right (.imp And.right (.imp And.right (.imp And.right And.right)))⟩
    · rintro ⟨p, hp | hp | hp | hp | hp⟩
      · exact ⟨(_, c), (mem_dueExpiries _ _ _).mpr ⟨p, .inl ⟨rfl, hp⟩⟩, rfl⟩
      · exact ⟨(_, c), (mem_dueExpiries _ _ _).mpr ⟨p, .inr (.inl ⟨rfl, hp⟩)⟩, rfl⟩
      · exact ⟨(_, c), (mem_dueExpiries _ _ _).mpr ⟨p, .inr (.inr (.inl ⟨rfl, hp⟩))⟩, rfl⟩
      · exact ⟨(_, c), (mem_dueExpiries _ _ _).mpr ⟨p, .inr (.inr (.inr (.inl ⟨rfl, hp⟩)))⟩, rfl⟩
      · exact ⟨(_, c), (mem_dueExpiries _ _ _).mpr ⟨p, .inr (.inr (.inr (.inr ⟨rfl, hp⟩)))⟩, rfl⟩

/-! ## Reset -/

/-- Settles O5: block by block, the values each chapter gives. -/
theorem resetStateValues : Obligations.ResetStateValues := by
  refine ⟨rfl, fun p => look_replicate _ p, fun i => look_replicate _ i, fun p c => look2_replicate _ p c,
    fun c => look_replicate _ c, fun i => look_replicate _ i,
    fun p c => ⟨look2_replicate _ p c, look2_replicate _ p c, look2_replicate _ p c⟩,
    fun p => ⟨look_replicate _ p, look_replicate _ p⟩, rfl, rfl, rfl, rfl,
    fun p => ⟨look_replicate _ p, look_replicate _ p, look_replicate _ p⟩, rfl, rfl, rfl, fun c => look_replicate _ c,
    rfl, rfl, rfl, rfl, rfl, rfl, rfl⟩

/-- After a reset the mask is 0, and ATTN at rest is where its conditions have it (R148, R149, R162). -/
theorem afterReset_attnLevel (s : State) (rst cs : PinLevel) : (s.afterReset rst cs).attnLevel = false := by
  have hmask : (s.afterReset rst cs).control.mask = 0 := rfl
  rw [State.attnLevel, hmask]
  simp

theorem done_afterReset (s : State) (rst cs : PinLevel) : done (s.afterReset rst cs) = .next (s.afterReset rst cs) := by
  rw [done_eq, driveAttn_of_level (afterReset_attnLevel s rst cs).symm]

/-- Settles O6: each of the three is the one reset, and they differ in the pins alone. -/
theorem threeResetsAreOne : Obligations.ThreeResetsAreOne := by
  intro s
  refine ⟨⟨s.held, ?falls, rfl, rfl, fun k => ?undriven⟩, ?rises, fun high => ?high, fun pins => ?powerOn, fun x hopen => ?reset⟩
  case falls =>
    rw [exec_resetPin]
    exact done_afterReset s .low s.port.cs
  case undriven =>
    have hrst : s.held.port.rst = .low := rfl
    simp [State.miso, hrst]
  case rises =>
    rintro move (⟨rfl, low⟩ | rfl)
    · rw [exec_resetPin, resetPinEffect, if_pos low, done_afterReset]
      rfl
    · rw [exec_resetPin, resetPinEffect, done_afterReset]
      rfl
  case high =>
    rw [exec_resetPin, resetPinEffect, if_neg (by simp [high]), done_eq]
    exact ⟨_, rfl, by simp [OnlyWrites]⟩
  case powerOn =>
    rw [exec_powerOn, done_afterReset]
    rfl
  case reset =>
    rw [exec_reset, onCommand_open hopen, done_afterReset]
    rfl

/-- Settles O58: the laws of sessions, line, port, receive side and send side each hold after a reset, and the state at
reset is one. -/
theorem lawsHoldAtReset : Obligations.LawsHoldAtReset := by
  have hreset : State.reset = State.reset.afterReset .high .high := rfl
  unfold Obligations.LawsHoldAtReset
  rw [hreset]
  obtain ⟨tags, timers, -, claims⟩ := sessionLaws_iff.mp (sessionLaws_afterReset State.reset .high .high)
  obtain ⟨-, counts, pins⟩ := linePortLaws_afterReset State.reset .high .high
  refine ⟨tags, timers, claims, counts, ⟨pins, ?_, fun hr => absurd hr (by simp)⟩, receiveLaws_afterReset _ _ _,
    (sendLaws_iff _).mp (sendLaws_afterReset _ _ _)⟩
  exact (afterReset_attnLevel _ _ _).symm

end Sys2Proof.Machine

/-! PROOFS. Chapter 9's commands: CONFIGURE, START and LEAVE where they are refused and where they are carried out (R154 to
R157), and which bytes make a valid record (R153, R167). -/

namespace Sys2Proof.Machine

/-! ## A host command in an open transaction -/

/-- A host command in a transaction that awaits one answers what its effect makes of the state, ATTN driven. -/
theorem onCommand_next {s u : State} {x : Transaction} (hopen : s.openTxn = some x) {effect : State → State}
    (heffect : effect s = u) : done (s.onCommand effect) = .next u.driveAttn := by
  rw [onCommand_open hopen, heffect, done_eq]

/-- A host command that only decides its result `r` ends the transaction with it and writes no other block. -/
theorem onCommand_decided {s : State} {x : Transaction} (hopen : s.openTxn = some x) {effect : State → State} {r : Result}
    (heffect : effect s = s.decided r) :
    ∃ t : State, done (s.onCommand effect) = .next t ∧ Ends x r s t ∧ OnlyWrites [.port] s t :=
  onCommand_taken_answers hopen (c := .decided r) (reply := []) heffect

/-! ## The configuration record -/

section Record
variable {m : ConfigImage} {r : ConfigRecord}

theorem bitRateOf_iff (code : Byte) (rate : BitRate) :
    bitRateOf code = some rate ↔
      code = 0x01 ∧ rate = .one ∨ code = 0x02 ∧ rate = .two ∨ code = 0x05 ∧ rate = .five ∨ code = 0x0A ∧ rate = .ten := by
  unfold bitRateOf
  split
  · next h => simp [h, eq_comm]
  split
  · next h => simp [h, eq_comm]
  split
  · next h => simp [h, eq_comm]
  split
  · next h => simp [h, eq_comm]
  · next h1 h2 h3 h4 =>
    refine ⟨fun h => by simp at h, ?_⟩
    rintro (⟨h, -⟩ | ⟨h, -⟩ | ⟨h, -⟩ | ⟨h, -⟩) <;> contradiction

/-- What the part reads is a record whose every field is the image's, the bits above a field ignored (R167). -/
theorem read_iff : ConfigRecord.read m = some r ↔
    r.ownStation.val = m.ownStation.toNat % 16 ∧ r.incarnation = m.incarnation ∧
    bitRateOf m.bitRate = some r.bitRate ∧
    (look r.grants 0 = m.grant0.toNat % 16 ∧ look r.grants 1 = m.grant1.toNat % 16 ∧
      look r.grants 2 = m.grant2.toNat % 16 ∧ look r.grants 3 = m.grant3.toNat % 16) ∧
    r.retryLimit = m.retryLimit.toNat % 16 ∧ r.ackTimeout = m.ackTimeout.toNat ∧
    r.refreshInterval = m.refreshInterval.toNat ∧ r.silenceMultiple = m.silenceMultiple.toNat % 16 ∧
    r.joinInterval = m.joinInterval.toNat ∧ r.joinAttempts = m.joinAttempts.toNat % 16 ∧
    r.holdDown = m.holdDown.toNat := by
  simp only [ConfigRecord.read, Option.map_eq_some_iff, lowNibble_eq]
  constructor
  · rintro ⟨rate, hrate, rfl⟩
    exact ⟨by simp, rfl, hrate, ⟨rfl, rfl, rfl, rfl⟩, rfl, rfl, rfl, rfl, rfl, rfl, rfl⟩
  · obtain ⟨own, inc, rate, grants, retry, ack, refresh, silence, join, attempts, hold⟩ := r
    rintro ⟨hown, rfl, hrate, ⟨h0, h1, h2, h3⟩, rfl, rfl, rfl, rfl, rfl, rfl, rfl⟩
    refine ⟨rate, hrate, ?_⟩
    congr 1
    · exact Fin.ext (by simpa using hown.symm)
    · refine table_ext _ _ fun c => ?_
      fin_cases c
      · exact h0.symm
      · exact h1.symm
      · exact h2.symm
      · exact h3.symm

/-- The ranges of R153 and the sum of the grants. -/
theorem valid_iff : r.valid = true ↔
    (∀ c : Cls, look r.grants c ≤ 8) ∧
    1 ≤ look r.grants 0 + look r.grants 1 + look r.grants 2 + look r.grants 3 ∧
    look r.grants 0 + look r.grants 1 + look r.grants 2 + look r.grants 3 ≤ 16 ∧
    (1 ≤ r.retryLimit ∧ r.retryLimit ≤ 15) ∧ (1 ≤ r.ackTimeout ∧ r.ackTimeout ≤ 255) ∧
    (5 ≤ r.refreshInterval ∧ r.refreshInterval ≤ 255) ∧ (2 ≤ r.silenceMultiple ∧ r.silenceMultiple ≤ 15) ∧
    (1 ≤ r.joinInterval ∧ r.joinInterval ≤ 255) ∧ (1 ≤ r.joinAttempts ∧ r.joinAttempts ≤ 15) ∧
    1 ≤ r.holdDown ∧ r.holdDown ≤ 255 := by
  have hsum : r.grantSum = look r.grants 0 + look r.grants 1 + look r.grants 2 + look r.grants 3 := by
    rw [grantSum_eq, Fin.sum_univ_four]
  simp only [ConfigRecord.valid, hsum, Bool.and_eq_true, List.all_eq_true, decide_eq_true_eq, mem_classes, forall_const,
    and_assoc]

/-- Settles O9: the record read has the image's fields, and validity is their ranges; the upper bounds that the statement
leaves out are those of four bits and of eight. -/
theorem configurationFieldsAndRanges : Obligations.ConfigurationFieldsAndRanges := by
  intro m r
  have nibble : ∀ b : Byte, b.toNat % 16 ≤ 15 := fun b => by omega
  have byte : ∀ b : Byte, b.toNat ≤ 255 := fun b => by have := b.isLt; omega
  rw [validRecord, Option.filter_eq_some_iff, read_iff, valid_iff, bitRateOf_iff]
  constructor
  · rintro ⟨⟨own, inc, rate, ⟨g0, g1, g2, g3⟩, retry, ack, refresh, silence, join, attempts, hold⟩, le8, ge1, le16,
      ⟨retry1, -⟩, ⟨ack1, -⟩, ⟨refresh5, -⟩, ⟨silence2, -⟩, ⟨join1, -⟩, ⟨attempts1, -⟩, hold1, -⟩
    exact ⟨own, inc, rate, g0, g1, g2, g3, le8, ge1, le16, retry, retry1, ack, ack1, refresh, refresh5, silence, silence2,
      join, join1, attempts, attempts1, hold, hold1⟩
  · rintro ⟨own, inc, rate, g0, g1, g2, g3, le8, ge1, le16, retry, retry1, ack, ack1, refresh, refresh5, silence, silence2,
      join, join1, attempts, attempts1, hold, hold1⟩
    exact ⟨⟨own, inc, rate, ⟨g0, g1, g2, g3⟩, retry, ack, refresh, silence, join, attempts, hold⟩, le8, ge1, le16,
      ⟨retry1, retry ▸ nibble _⟩, ⟨ack1, ack ▸ byte _⟩, ⟨refresh5, refresh ▸ byte _⟩, ⟨silence2, silence ▸ nibble _⟩,
      ⟨join1, join ▸ byte _⟩, ⟨attempts1, attempts ▸ nibble _⟩, hold1, hold ▸ byte _⟩

end Record

/-! ## CONFIGURE -/

theorem anyOccupied_iff (rx : ReceiveUnit) : rx.anyOccupied = true ↔ ∃ i : RxIx, (look rx.pool i).isOccupied = true := by
  simp only [ReceiveUnit.anyOccupied, List.any_eq_true, Vector.mem_toList_iff, Vector.mem_iff_getElem]
  constructor
  · rintro ⟨-, ⟨i, hi, rfl⟩, ho⟩
    exact ⟨⟨i, hi⟩, ho⟩
  · rintro ⟨i, ho⟩
    exact ⟨_, ⟨i.val, i.isLt, rfl⟩, ho⟩

section Configure
variable {s : State} {image : ConfigImage} {r : ConfigRecord}

theorem configureEffect_wrongState (h1 : s.control.station ≠ .unconfigured) (h2 : s.control.station ≠ .configured) :
    configureEffect image s = s.decided .wrongState := if_pos ⟨h1, h2⟩

theorem configureEffect_badConfig (h : s.control.station = .unconfigured ∨ s.control.station = .configured)
    (invalid : validRecord image = none) : configureEffect image s = s.decided .badConfig := by
  rw [configureEffect, if_neg (by tauto), invalid]

theorem configureEffect_poolBusy (h : s.control.station = .configured) (valid : validRecord image = some r)
    (occupied : ∃ i : RxIx, (look s.rx.pool i).isOccupied = true) :
    configureEffect image s = s.decided .poolBusy := by
  rw [configureEffect, if_neg (by tauto), valid]
  exact if_pos ⟨h, (anyOccupied_iff _).mpr occupied⟩

theorem configureEffect_ok (valid : validRecord image = some r)
    (h : s.control.station = .unconfigured ∨
      s.control.station = .configured ∧ ∀ i : RxIx, (look s.rx.pool i).isOccupied = false) :
    configureEffect image s = (s.applyConfig r).decided .ok := by
  rw [configureEffect, if_neg (by tauto), valid]
  refine if_neg fun ⟨hc, ho⟩ => ?_
  obtain hu | ⟨-, hfree⟩ := h
  · simp [hc] at hu
  · obtain ⟨i, hi⟩ := (anyOccupied_iff _).mp ho
    simp [hfree i] at hi

/-- A record applied returns a changed own number's position to reset values, and no other (R2, R154). -/
theorem applyConfig_entry (p : Station) : (s.applyConfig r).entry p =
    if p = r.ownStation ∧ ∃ o ∈ s.own, o ≠ r.ownStation then .reset else s.entry p := by
  have changed : (s.own ≠ none ∧ s.own ≠ some r.ownStation) ↔ ∃ o ∈ s.own, o ≠ r.ownStation := by
    cases s.own <;> simp
  by_cases hc : ∃ o ∈ s.own, o ≠ r.ownStation
  · simp only [State.entry, State.applyConfig, if_pos (changed.mpr hc), look_put, hc, and_true, eq_comm (a := r.ownStation)]
  · simp only [State.entry, State.applyConfig, if_neg (mt changed.mp hc), hc, and_false, if_false]

end Configure

/-- Settles O7: the record applied, with the result OK. -/
theorem configureAppliesRecord : Obligations.ConfigureAppliesRecord := by
  intro s x image r hopen valid hstation
  rw [exec_configure]
  obtain ⟨htxn, -⟩ := openTxn_some hopen
  exact ⟨_, onCommand_next hopen (configureEffect_ok valid hstation), rfl, applyConfig_entry,
    ends_decided (t := s.applyConfig r) htxn .ok rfl, by simp [OnlyWrites, State.applyConfig]⟩

/-! ## START -/

theorem startEffect_configured {s : State} (h : s.control.station = .configured) :
    startEffect s =
      ({ s with
        control := { s.control with station := .active }
        arb := { s.arb with announce := true }
        line := { s.line with state := .receiving .unsynchronized, marker := false } } : State).decided .ok :=
  if_pos h

/-- Settles O10: a START in CONFIGURED. -/
theorem startTakesTheLine : Obligations.StartTakesTheLine := by
  intro s x hopen hstation
  rw [exec_start]
  obtain ⟨htxn, -⟩ := openTxn_some hopen
  exact ⟨_, onCommand_next hopen (startEffect_configured hstation), rfl, rfl, rfl, ends_decided htxn .ok rfl,
    by simp [OnlyWrites]⟩

/-! ## The refusals -/

theorem leaveEffect_refused {s : State} (h : s.control.station ≠ .active) :
    leaveEffect s = s.decided (if s.control.station = .leaving then .ok else .wrongState) := by
  unfold leaveEffect
  cases hs : s.control.station with
  | active => exact absurd hs h
  | leaving | unconfigured | configured | muted => rfl

/-- Settles O8: each refusal only decides its result. -/
theorem stationCommandRefusals : Obligations.StationCommandRefusals := by
  intro s x image hopen
  simp only [exec_configure, exec_start, exec_leave]
  refine ⟨fun h1 h2 => onCommand_decided hopen (configureEffect_wrongState h1 h2),
    fun h invalid => onCommand_decided hopen (configureEffect_badConfig h invalid), fun h valid occupied => ?_,
    fun h => onCommand_decided hopen (if_neg h), fun h => onCommand_decided hopen (leaveEffect_refused h)⟩
  obtain ⟨r, hr⟩ := Option.ne_none_iff_exists'.mp valid
  exact onCommand_decided hopen (configureEffect_poolBusy h hr occupied)

/-! ## The drained report -/

theorem isDrained_iff (a : Arbiter) : a.isDrained = true ↔ (∀ p : Station, look a.severs p = none) ∧ a.inHand = none := by
  simp [Arbiter.isDrained]

/-- A drained LEAVING station, nothing in the buffer, becomes CONFIGURED and SILENT, the yield flag clear (R157). -/
theorem reportDrained_drained {s : State} (leaving : s.control.station = .leaving) (drained : s.arb.isDrained = true)
    (outbound : s.line.outbound = none) (h1 : s.line.state ≠ .contending) (h2 : s.line.state ≠ .transmitting) :
    s.reportDrained =
      { s with
        control := { s.control with station := .configured }
        line := { s.line with state := .silent }
        arb := { s.arb with yield := false } } := by
  have silent : (s.setStation .configured).goSilent = ((s.setStation .configured).emptyBuffer).setLine .silent := by
    unfold State.goSilent
    rw [setStation_line]
    cases hl : s.line.state with
    | contending => exact absurd hl h1
    | transmitting => exact absurd hl h2
    | silent | idle | receiving => rfl
  rw [State.reportDrained, if_pos ⟨leaving, drained⟩, silent]
  simp only [State.idleEnded, State.setLine, State.emptyBuffer, State.setStation, ← outbound]

theorem reportDrained_other {s : State} (h : ¬(s.control.station = .leaving ∧ s.arb.isDrained = true)) :
    s.reportDrained = s := if_neg h

/-- Settles O12: by whether the report arises. -/
theorem drainedStationIsConfigured : Obligations.DrainedStationIsConfigured := by
  intro s law
  rw [exec_drained]
  refine ⟨fun leaving severs hand => ?_, fun h => ⟨_, done_eq _, ?_⟩⟩
  · have free : s.line.outbound = none ∧ s.line.state ≠ .contending ∧ s.line.state ≠ .transmitting := by
      obtain ⟨-, hout, hhand, -⟩ := law
      have hn : ¬s.line.outbound.isSome = true := by rw [← hhand, hand]; simp
      exact ⟨Option.not_isSome_iff_eq_none.mp hn, not_or.mp (mt hout.mpr hn)⟩
    obtain ⟨hout, h1, h2⟩ := free
    rw [reportDrained_drained leaving ((isDrained_iff _).mpr ⟨severs, hand⟩) hout h1 h2]
    exact ⟨_, done_eq _, rfl, rfl, rfl, by simp [OnlyWrites]⟩
  · have other : s.reportDrained = s := reportDrained_other fun ⟨hl, hd⟩ => by
      obtain ⟨hs, hi⟩ := (isDrained_iff _).mp hd
      obtain h | ⟨p, hp⟩ | h := h
      · exact h hl
      · exact hp (hs p)
      · exact h hi
    rw [other]
    simp [OnlyWrites]

/-! ## LEAVE -/

theorem allClose_congr {reason : CloseReason} {s t u : State} (h : AllClose reason s u) (session : t.session = u.session)
    (rx : t.rx = u.rx) (tx : t.tx = u.tx) : AllClose reason s t := by
  cases t
  cases u
  subst session rx tx
  exact h

/-- The claims, the port and the rest of the state after every session is closed with a reason other than RESTART (R13,
R14). -/
theorem closeAll_claims (s : State) {reason : CloseReason} (hr : reason ≠ .restart) :
    let t := s.closeAll reason
    (∀ p : Station, look t.arb.severs p =
      if (s.entry p).state ≠ .absent then
        ((closeSever reason (s.entry p).state).map (s.entry p).severFor).or (look s.arb.severs p)
      else look s.arb.severs p) ∧
    (∀ p : Station,
      look t.arb.joins p = (decide ((s.entry p).state = .absent) && look s.arb.joins p) ∧
      look t.arb.tallies p = (decide ((s.entry p).state = .absent) && look s.arb.tallies p)) ∧
    t.arb =
      { s.arb with joins := t.arb.joins, tallies := t.arb.tallies, severs := t.arb.severs, inHand := t.arb.inHand } ∧
    t.arb.inHand = s.arb.inHand.map (fun h =>
      if ∃ p : Station, (s.entry p).state ≠ .absent ∧ (h.kind = .join p ∨ h.kind = .tally p) then
        { h with withdrawn := true }
      else h) ∧
    t.port = s.port.noted (fun _ => false) (fun q => decide ((s.entry q).state ≠ .absent)) ∧ t.pending = s.pending := by
  obtain ⟨ps, hn, hm, he⟩ := closeAll_eq s reason
  obtain ⟨-, -, -, -, -, -, -, -, -, -, -, -, hclaims, harb, hhand, hport, -, -, -, hpending⟩ :=
    closes_spec hr ps hn { s with draws := s.draws + 1 }
  simp only [← he] at hclaims harb hhand hport hpending
  simp only [hm] at hclaims hhand hport
  refine ⟨fun p => (hclaims p).2.2, fun p => ?_, harb, hhand, hport, hpending⟩
  obtain ⟨hjoin, htally, -⟩ := hclaims p
  rw [hjoin, htally]
  by_cases h : (s.entry p).state = .absent <;> simp [State.entry] at h ⊢ <;> simp [h]


/-- What a LEAVE in ACTIVE leaves before the drained report: every session closed LEFT in LEAVING, the ANNOUNCE gone. -/
def State.left (s : State) : State :=
  let s1 := (s.setStation .leaving).closeAll .left
  { s1 with arb := s1.arb.clearAnnounce }

theorem leaveEffect_active {s : State} (h : s.control.station = .active) :
    leaveEffect s = s.left.reportDrained.decided .ok := by
  unfold leaveEffect
  rw [h]
  rfl

section Left
variable (s : State)

theorem left_control : s.left.control = { s.control with station := .leaving } :=
  (closeAll_line (s := s.setStation .leaving) .left).2

theorem left_line : s.left.line = s.line := (closeAll_line (s := s.setStation .leaving) .left).1

theorem left_allClose : AllClose .left s s.left :=
  allClose_congr (closeAll_allClose (s.setStation .leaving) (.inl rfl)) rfl rfl rfl

/-- A SEVER claim with the tags before it stands for each session that was JOINING or OPEN (R13, R14). -/
theorem left_severs (p : Station) : look s.left.arb.severs p =
    if (s.entry p).state = .joining ∨ (s.entry p).state = .opened then some ((s.entry p).severFor .left)
    else look s.arb.severs p := by
  have h := (closeAll_claims (s.setStation .leaving) (reason := .left) (by simp)).1 p
  refine h.trans ?_
  change (if (s.entry p).state ≠ .absent then
      ((closeSever .left (s.entry p).state).map (s.entry p).severFor).or (look s.arb.severs p)
    else look s.arb.severs p) = _
  cases (s.entry p).state <;> rfl

/-- A JOIN or TALLY claim stays for an entry that was ABSENT alone (R13, R14). -/
theorem left_claims (p : Station) :
    look s.left.arb.joins p = (decide ((s.entry p).state = .absent) && look s.arb.joins p) ∧
      look s.left.arb.tallies p = (decide ((s.entry p).state = .absent) && look s.arb.tallies p) :=
  (closeAll_claims (s.setStation .leaving) (reason := .left) (by simp)).2.1 p

/-- The frame in hand is withdrawn if it is the ANNOUNCE, or a JOIN or TALLY to a peer whose session has closed. -/
theorem left_inHand : s.left.arb.inHand = s.arb.inHand.map fun h =>
    if h.kind = .announce ∨ ∃ p : Station, (s.entry p).state ≠ .absent ∧ (h.kind = .join p ∨ h.kind = .tally p) then
      { h with withdrawn := true }
    else h := by
  have hhand : ((s.setStation .leaving).closeAll .left).arb.inHand = s.arb.inHand.map fun h =>
      if ∃ p : Station, (s.entry p).state ≠ .absent ∧ (h.kind = .join p ∨ h.kind = .tally p) then
        { h with withdrawn := true }
      else h :=
    (closeAll_claims (s.setStation .leaving) (reason := .left) (by simp)).2.2.2.1
  have hl : s.left.arb.inHand = ((s.setStation .leaving).closeAll .left).arb.inHand.map fun h =>
      if h.kind = .announce then { h with withdrawn := true } else h := rfl
  rw [hl, hhand, Option.map_map]
  congr 1
  funext h
  by_cases ha : h.kind = .announce
  · simp [ha]
  · by_cases hp : ∃ p : Station, (s.entry p).state ≠ .absent ∧ (h.kind = .join p ∨ h.kind = .tally p)
    · rw [Function.comp_apply, if_pos hp, if_neg ha, if_pos (.inr hp)]
    · rw [Function.comp_apply, if_neg hp, if_neg ha, if_neg (not_or.mpr ⟨ha, hp⟩)]

theorem left_yield : s.left.arb.yield = s.arb.yield := by
  obtain ⟨-, -, harb, -⟩ := closeAll_claims (s.setStation .leaving) (reason := .left) (by simp)
  have h := congrArg Arbiter.yield harb
  exact h

theorem left_arb : s.left.arb =
    { s.arb with
      announce := false, severs := s.left.arb.severs, joins := s.left.arb.joins, tallies := s.left.arb.tallies,
      yield := s.left.arb.yield, inHand := s.left.arb.inHand } := by
  obtain ⟨-, -, harb, -⟩ := closeAll_claims (s.setStation .leaving) (reason := .left) (by simp)
  rw [left_yield]
  exact congrArg (fun a : Arbiter => { a with announce := false, inHand := s.left.arb.inHand }) harb

theorem left_port : s.left.port = s.port.noted (fun _ => false) (fun q => decide ((s.entry q).state ≠ .absent)) :=
  (closeAll_claims (s.setStation .leaving) (reason := .left) (by simp)).2.2.2.2.1

theorem left_pending : s.left.pending = s.pending :=
  (closeAll_claims (s.setStation .leaving) (reason := .left) (by simp)).2.2.2.2.2

end Left

/-- Settles O11: what the closes leave, then the drained report by whether it arises at once. -/
theorem leaveClosesEverySession : Obligations.LeaveClosesEverySession := by
  intro s x hopen hstation law
  rw [exec_leave]
  obtain ⟨htxn, hx⟩ := openTxn_some hopen
  have leaving : s.left.control.station = .leaving := by rw [left_control]
  have handNone : s.left.arb.inHand = none ↔ s.arb.inHand = none := by rw [left_inHand, Option.map_eq_none_iff]
  have port : ∀ u : State, u.port = s.left.port →
      PortBecomes { s.port with txn := some { x with command := .decided .ok, reply := [] } } (u.decided .ok).driveAttn := by
    intro u hu
    refine portBecomes_driveAttn ?_
    simp [PortBecomes, hu, left_port, HostPort.noted, htxn]
  refine ⟨_, onCommand_next hopen (leaveEffect_active hstation), ?_⟩
  by_cases drained : (∀ p : Station, look s.left.arb.severs p = none) ∧ s.arb.inHand = none
  · obtain ⟨severs, hand⟩ := drained
    have hnot : ¬s.line.outbound.isSome = true := by rw [← law.2.2.1, hand]; simp
    obtain ⟨h1, h2⟩ := not_or.mp (mt law.2.1.mpr hnot)
    have hout := Option.not_isSome_iff_eq_none.mp hnot
    rw [reportDrained_drained leaving ((isDrained_iff _).mpr ⟨severs, handNone.mpr hand⟩) (by rw [left_line]; exact hout)
      (by rwa [left_line]) (by rwa [left_line])]
    refine ⟨allClose_congr (left_allClose s) rfl rfl rfl, left_severs s, left_claims s, ?_, left_inHand s, ?_, ?_, ?_⟩
    · exact congrArg (fun a : Arbiter => { a with yield := false }) (left_arb s)
    · refine (if_pos ?_).mpr ⟨?_, ?_, rfl⟩
      · exact ⟨severs, hand⟩
      · simp [left_control]
      · simp [left_line]
    · exact port _ rfl
    · simp [OnlyWrites, left_pending]
  · rw [reportDrained_other fun ⟨_, hd⟩ => drained (by rwa [isDrained_iff, handNone] at hd)]
    refine ⟨allClose_congr (left_allClose s) rfl rfl rfl, left_severs s, left_claims s, ?_, left_inHand s, ?_, ?_, ?_⟩
    · exact left_arb s
    · refine (if_neg ?_).mpr ⟨left_control s, left_line s, left_yield s⟩
      exact drained
    · exact port _ rfl
    · simp [OnlyWrites, left_pending]

end Sys2Proof.Machine

/-! PROOFS. The commands of chapter 4: SUBMIT by its checks in the table's order (R71), CANCEL (R75), COMPLETIONS and the
reading of its records (R80, R81). -/

namespace Sys2Proof.Machine

/-! ## SUBMIT -/

/-- The checks of R71, one after the other: the first that fails gives the refusal. -/
theorem submitRefusal_eq (s : State) (dest cls : Byte) (length : BitVec 16) (carried : Nat) :
    s.submitRefusal dest cls length carried =
      if s.control.station ≠ .active then some .wrongState
      else if ¬(dest.toNat ≤ 15 ∧ s.own.map (·.val) ≠ some dest.toNat) then some .badDest
      else if 3 < cls.toNat then some .badClass
      else if ¬(1 ≤ length.toNat ∧ length.toNat ≤ 500) then some .badLength
      else if carried < length.toNat then some .short
      else if ¬∃ p : Station, p.val = dest.toNat ∧ ((s.entry p).state = .joining ∨ (s.entry p).state = .opened) then
        some .peerDown
      else if ¬∃ i : TxIx, look s.tx.pool i = .free then some .noSlot
      else none := by
  have step : ∀ (P : Prop) [Decidable P] (r : Result) (l : List (Bool × Result)),
      (((decide P, r) :: l).find? fun check => !check.1).map (·.2) =
        if ¬P then some r else (l.find? fun check => !check.1).map (·.2) := by
    intro P _ r l
    by_cases h : P <;> simp [h]
  simp only [State.submitRefusal, step, List.find?_nil, Option.map_none, Nat.not_le, ne_eq]

/-- The staging buffer filled, the rest of the state stands (R70). -/
theorem submitEffect_eq (s : State) (dest cls : Byte) (hostTag length : BitVec 16) (payload : List Byte) :
    submitEffect dest cls hostTag length payload s =
      if s.control.station = .active then
        submitChecked dest cls hostTag length payload.length (s.fillStaging payload)
      else (s.fillStaging payload).decided .wrongState := by
  simp only [submitEffect, State.isActive, decide_eq_true_eq]
  rfl

theorem classOf_eq (b : Byte) : classOf b = if h : b.toNat < 4 then some ⟨b.toNat, h⟩ else none := rfl

section Checks
variable {s : State} {dest cls : Byte} {length : BitVec 16} {carried : Nat} (hostTag : BitVec 16)

/-- The first check of an ACTIVE station's that fails decides the result (R71). -/
theorem submitChecked_refused {r : Result} (active : s.control.station = .active)
    (h : s.submitRefusal dest cls length carried = some r) :
    submitChecked dest cls hostTag length carried s = s.decided r := by
  rw [submitRefusal_eq, if_neg (not_not.mpr active)] at h
  unfold submitChecked
  by_cases dest15 : dest.toNat ≤ 15
  case neg =>
    rw [if_pos (fun ⟨h15, _⟩ => dest15 h15)] at h
    rw [stationOf_none (by omega), Option.some.inj h]
  obtain ⟨p, hp⟩ : ∃ p : Station, dest.toNat = p.val := ⟨⟨dest.toNat, by omega⟩, rfl⟩
  have ownIff : s.own.map (·.val) = some dest.toNat ↔ s.own = some p := by
    rw [hp]; cases s.own <;> simp [Fin.val_inj]
  have upIff : (∃ q : Station, q.val = dest.toNat ∧ ((s.entry q).state = .joining ∨ (s.entry q).state = .opened)) ↔
      ((s.entry p).state = .joining ∨ (s.entry p).state = .opened) := by
    rw [hp]
    exact ⟨fun ⟨q, hq, hs⟩ => Fin.ext hq ▸ hs, fun hs => ⟨p, rfl, hs⟩⟩
  simp only [ne_eq, ownIff, upIff, dest15, true_and, not_not] at h
  simp only [stationOf_some hp, classOf_eq]
  by_cases own : s.own = some p
  case pos => rw [if_pos own] at h ⊢; rw [Option.some.inj h]
  rw [if_neg own] at h ⊢
  by_cases cls3 : 3 < cls.toNat
  case pos => rw [if_pos cls3] at h; rw [dif_neg (by omega), Option.some.inj h]
  rw [if_neg cls3] at h; rw [dif_pos (by omega)]
  by_cases len : 1 ≤ length.toNat ∧ length.toNat ≤ 500
  case neg =>
    rw [if_pos len] at h
    simp only [if_pos (show length.toNat = 0 ∨ Config.maxPayload < length.toNat by simp only [Config.maxPayload]; omega),
      Option.some.inj h]
  rw [if_neg (not_not.mpr len)] at h
  simp only [if_neg (show ¬(length.toNat = 0 ∨ Config.maxPayload < length.toNat) by simp only [Config.maxPayload]; omega)]
  by_cases short : carried < length.toNat
  case pos => rw [if_pos short] at h ⊢; rw [Option.some.inj h]
  rw [if_neg short] at h ⊢
  by_cases up : (s.entry p).state = .joining ∨ (s.entry p).state = .opened
  case neg => rw [if_pos up] at h; rw [if_pos (not_or.mp up), Option.some.inj h]
  rw [if_neg (not_not.mpr up)] at h; rw [if_neg (fun hn => up.elim hn.1 hn.2)]
  by_cases free : ∃ i : TxIx, look s.tx.pool i = .free
  case pos => rw [if_neg (not_not.mpr free)] at h; simp at h
  rw [if_pos free] at h
  rw [freeSlot_none free, Option.some.inj h]

/-- Where every check passes the message is queued in the free slot (R71). -/
theorem submitChecked_ok {p : Station} {i : TxIx} (c : Cls) (own : s.own ≠ some p) (length1 : 1 ≤ length.toNat)
    (length500 : length.toNat ≤ 500) (long : length.toNat ≤ carried)
    (up : (s.entry p).state = .joining ∨ (s.entry p).state = .opened) (free : s.tx.freeSlot = some i) :
    submitChecked (BitVec.ofNat 8 p.val) (BitVec.ofNat 8 c.val) hostTag length carried s =
      { s with tx := s.tx.enqueue i p c hostTag (s.port.staging.take length.toNat) }.decided .ok := by
  have inRange : ¬(length.toNat = 0 ∨ Config.maxPayload < length.toNat) := by simp only [Config.maxPayload]; omega
  rw [submitChecked, stationOf_ofNat]
  simp only [if_neg own, classOf_ofNat, if_neg inRange, if_neg (show ¬carried < length.toNat by omega), free]
  exact if_neg fun hn => up.elim hn.1 hn.2

end Checks

/-- Settles O13: the checks pass, and a free slot is taken; the staging buffer holds no more than the length asks for. -/
theorem submitQueuesMessage : Obligations.SubmitQueuesMessage := by
  intro s x p c hostTag length payload hopen active own length1 length500 long up free
  obtain ⟨htxn, -⟩ := openTxn_some hopen
  obtain ⟨i, hfree, hi⟩ := freeSlot_some free
  have heffect : submitEffect (BitVec.ofNat 8 p.val) (BitVec.ofNat 8 c.val) hostTag length payload s = _ :=
    (submitEffect_eq ..).trans ((if_pos active).trans
      (submitChecked_ok (s := s.fillStaging payload) hostTag c own length1 length500 long up hfree))
  rw [exec_submit]
  refine ⟨_, i, onCommand_next hopen heffect, hi, ?_, ?_, ?_⟩
  · have take : (payload.take 500).take length.toNat = payload.take length.toNat := by
      rw [List.take_take, Nat.min_eq_left length500]
    simp only [driveAttn_tx, decided_tx, State.fillStaging, Config.maxPayload, take, TransmitUnit.enqueue]
    rw [List.length_take, Nat.min_eq_left long]
  · simp [PortBecomes, State.fillStaging, Config.maxPayload, htxn]
  · simp [OnlyWrites, State.fillStaging]

/-! ## CANCEL -/

section Cancel
variable {s : State} {hostTag : BitVec 16} {dest : Byte} {p : Station}

theorem cancelEffect_badDest (h : 15 < dest.toNat) : cancelEffect hostTag dest s = s.decided .badDest := by
  rw [cancelEffect, stationOf_none h]

/-- With no QUEUED match a CANCEL is refused, by whether a match is under way (R75, steps 3 and 4). -/
theorem cancelEffect_refused (hp : dest.toNat = p.val) (none : s.tx.oldestQueued hostTag p = none) :
    cancelEffect hostTag dest s = s.decided (if s.tx.underWay hostTag p then .inFlight else .notFound) := by
  simp only [cancelEffect, stationOf_some hp, none]
  split <;> rfl

/-- The oldest QUEUED match leaves its send queue and is DONE, CANCELLED (R75, step 2). -/
theorem withdraw_eq {tx : TransmitUnit} {i : TxIx} {r : TxRecord} (c : Cls) (h : look tx.pool i = .held r) :
    tx.withdraw p c i =
      { tx with
        pool := put tx.pool i (.held
          { r with payload := [], transmitCount := 0, order := 0, state := .done .cancelled .none })
        queues := put2 tx.queues p c ((look2 tx.queues p c).erase i)
        completions := tx.completions ++ [i] } := by
  simp [TransmitUnit.withdraw, TransmitUnit.finish, changeSlot_eq, TransmitUnit.unqueue, h, TxRecord.finished]

end Cancel

/-- Settles O14: SUBMIT by the first check that fails, CANCEL by what matches. -/
theorem submitAndCancelRefusals : Obligations.SubmitAndCancelRefusals := by
  intro s x hostTag dest hopen
  obtain ⟨htxn, -⟩ := openTxn_some hopen
  refine ⟨fun cls length payload r h => ?_, fun h => ?_, fun p hp queued => ?_⟩
  · have heffect : submitEffect dest cls hostTag length payload s = (s.fillStaging payload).decided r := by
      rw [submitEffect_eq]
      by_cases active : s.control.station = .active
      · rw [if_pos active]
        exact submitChecked_refused (s := s.fillStaging payload) hostTag active h
      · rw [submitRefusal_eq, if_pos active] at h
        rw [if_neg active, Option.some.inj h]
    rw [exec_submit]
    refine ⟨_, onCommand_next hopen heffect, ?_, ?_⟩
    · simp [PortBecomes, State.fillStaging, Config.maxPayload, htxn]
    · simp [OnlyWrites, State.fillStaging]
  · rw [exec_cancel]
    exact onCommand_decided hopen (cancelEffect_badDest h)
  · have refused := cancelEffect_refused (hostTag := hostTag) hp (oldestQueued_none.mpr queued)
    rw [exec_cancel]
    refine ⟨fun underWay => ?_, fun done => ?_⟩
    · rw [if_pos (underWay_iff.mpr underWay)] at refused
      exact onCommand_decided hopen refused
    · have notUnderWay : ¬s.tx.underWay hostTag p = true := fun h => by
        obtain ⟨i, r, hi, htag, hdest, hr⟩ := underWay_iff.mp h
        obtain ⟨st, rs, hst⟩ := done i r hi htag hdest
        simp [hst] at hr
      rw [if_neg notUnderWay] at refused
      exact onCommand_decided hopen refused

/-- Settles O15: the slot found is the earliest match, and that is the slot given. -/
theorem cancelTakesOldestQueued : Obligations.CancelTakesOldestQueued := by
  intro s x p i r hopen hi hdest hqueued oldest
  obtain ⟨htxn, -⟩ := openTxn_some hopen
  have found : s.tx.oldestQueued r.hostTag p = some (i, r) := by
    cases h : s.tx.oldestQueued r.hostTag p with
    | none => exact absurd hqueued (oldestQueued_none.mp h i r hi rfl hdest)
    | some y =>
      obtain ⟨j, u⟩ := y
      obtain ⟨⟨hj, htag, hd, hq⟩, first⟩ := oldestQueued_some h
      obtain rfl | later := oldest j u hj htag hd hq
      · have hu : u = r := TxSlot.held.inj (hj.symm.trans hi)
        rw [hu]
      · exact absurd (first i r hi rfl hdest hqueued) (Nat.not_le.mpr later)
  have heffect : cancelEffect r.hostTag (BitVec.ofNat 8 p.val) s =
      { s with tx := s.tx.withdraw p r.cls i }.decided .ok := by
    simp only [cancelEffect, stationOf_ofNat, found]
  rw [exec_cancel]
  exact ⟨_, onCommand_next hopen heffect, withdraw_eq r.cls hi, ends_decided (s := s) htxn .ok rfl, by simp [OnlyWrites]⟩

/-! ## COMPLETIONS -/

/-- Settles O16: the count is refused, or the records fixed are the first of the queue. -/
theorem completionsShowsOldestRecords : Obligations.CompletionsShowsOldestRecords := by
  intro s x n hopen
  rw [exec_completions]
  refine ⟨fun n1 n32 => ?_, fun h => onCommand_decided hopen (if_pos h)⟩
  have shown : completionsEffect n s = s.taken
      (if s.tx.completions = [] then .decided .empty else .completions (min n.toNat s.tx.completions.length))
      (BitVec.ofNat 8 (min n.toNat s.tx.completions.length) ::
        (s.tx.completions.take n.toNat).flatMap s.reportOf) := by
    have inRange : ¬(n.toNat = 0 ∨ Config.txSlots < n.toNat) := by simp only [Config.txSlots]; omega
    simp only [completionsEffect, if_neg inRange, List.length_take, completionRecord_eq]
    by_cases empty : s.tx.completions = []
    · simp [empty, byteOf]
    · have pos : min n.toNat s.tx.completions.length ≠ 0 := by
        have := List.length_pos_iff.mpr empty
        omega
      rw [if_neg pos, if_neg empty]
      rfl
  exact onCommand_taken_answers hopen shown

/-- The command of an open transaction replaced, its reply kept (R138). -/
theorem answers_setCommand {s t : State} {x : Transaction} (htxn : s.port.txn = some x) (c : TxnCommand)
    (ht : t.port = s.port) : Answers x c x.reply s (t.setCommand c).driveAttn := by
  refine portBecomes_driveAttn ?_
  simp [PortBecomes, HostPort.onCommand, ht, htxn]

/-- Settles O17: a record left to read is the head of the completion queue. -/
theorem recordReadFreesHead : Obligations.RecordReadFreesHead := by
  intro s
  rw [exec_completionRecordRead]
  refine ⟨fun x n i rest htxn hcommand hqueue => ?_, fun h => ⟨_, done_eq _, ?_⟩⟩
  · have heffect : completionRecordReadEffect s =
        { s with tx := { s.tx with pool := put s.tx.pool i .free, completions := rest } }.setCommand (.completions n) := by
      simp only [completionRecordReadEffect, State.command, htxn, Option.map_some, hcommand, TransmitUnit.popCompletion,
        hqueue]
    rw [heffect]
    exact ⟨_, done_eq _, rfl, answers_setCommand htxn _ rfl, by simp [OnlyWrites]⟩
  · have none : completionRecordReadEffect s = s := by
      unfold completionRecordReadEffect
      split
      next left hc => exact absurd hc (h left)
      next => rfl
    rw [none]
    simp [OnlyWrites]

end Sys2Proof.Machine

/-! PROOFS. The host port: TAKE and PEEK with a message to show (R57 to R63) and the release at a TAKE's completion (R60,
R45), STATUS and PEERS with their read-clears (R144 to R147), MASK, unknown commands, and the two ends of a transaction
(R137 to R142). -/

namespace Sys2Proof.Machine

/-! ## TAKE and PEEK with a message to show -/

section Shown
variable {s : State} {classByte : Byte} {c : Cls} {i : RxIx} {m : MsgRecord} {n : Nat}
  (inRange : classChoice classByte ≠ .outOfRange) (shown : s.rx.shown (classChoice classByte) = some (c, i, m, n))
include inRange shown

/-- A TAKE that shows a message answers its header and payload (R58, R59). -/
theorem takeEffect_shown : takeEffect classByte s = s.taken (.take c i false) (headerOf m n ++ m.payload) := by
  unfold takeEffect
  split
  case h_1 out => exact absurd out inRange
  case h_2 => rw [shown, ← header_eq]

/-- A PEEK that shows a message answers its header alone (R58, R63). -/
theorem peekEffect_shown : peekEffect classByte s = s.taken (.decided .ok) (headerOf m n) := by
  unfold peekEffect
  split
  case h_1 out => exact absurd out inRange
  case h_2 => rw [shown, ← header_eq]

end Shown

/-- Settles O18: the chosen queue's head is what both commands show. -/
theorem takeAndPeekShowHead : Obligations.TakeAndPeekShowHead := by
  intro s x classByte c i rest m hopen hqueue hslot hchoice
  obtain ⟨inRange, shown⟩ := shown_head hchoice hqueue hslot
  rw [exec_take, exec_peek]
  exact ⟨onCommand_taken_answers hopen (takeEffect_shown inRange shown),
    onCommand_taken_answers hopen (peekEffect_shown inRange shown)⟩

/-! ## A TAKE's completion -/

/-- A release of an OCCUPIED slot: by whether its message's source is OPEN now (R45). -/
theorem releaseSlot_occupied {s : State} {i : RxIx} {m : MsgRecord} (h : look s.rx.pool i = .occupied m) :
    s.releaseSlot i =
      if (s.entry m.source).state = .opened then { s with rx := s.rx.release i m true }.claimTally m.source
      else { s with rx := s.rx.release i m false } := by
  simp only [State.releaseSlot, ReceiveUnit.message, h, State.isOpen]
  by_cases ho : (s.entry m.source).state = .opened <;> simp [ho]

/-- Settles O21: the head leaves its queue, and its slot is released by its source's state. -/
theorem takeCompletionReleases : Obligations.TakeCompletionReleases := by
  intro s x c i rest m htxn hcommand hqueue hslot
  have heffect : takeCompleteEffect s = ((s.dequeue c i).releaseSlot i).setCommand (.take c i true) := by
    simp only [takeCompleteEffect, State.command, htxn, Option.map_some, hcommand]
  have dequeued : alter s.rx.queues c (·.erase i) = put s.rx.queues c rest := by
    refine table_ext _ _ fun d => ?_
    rw [look_alter, look_put, hqueue, List.erase_cons_head]
  rw [exec_takeComplete, heffect, releaseSlot_occupied (s := s.dequeue c i) hslot]
  refine ⟨_, done_eq _, ?_⟩
  by_cases opened : (s.entry m.source).state = .opened
  · rw [if_pos (show ((s.dequeue c i).entry m.source).state = .opened from opened), if_pos opened]
    exact ⟨dequeued, ⟨rfl, rfl, rfl⟩, answers_setCommand htxn _ rfl, by simp [OnlyWrites, State.dequeue]⟩
  · rw [if_neg (show ¬((s.dequeue c i).entry m.source).state = .opened from opened), if_neg opened]
    exact ⟨dequeued, ⟨rfl, rfl, rfl⟩, answers_setCommand htxn _ rfl, by simp [OnlyWrites, State.dequeue]⟩

/-! ## STATUS and PEERS -/

/-- Settles O22: the status record, byte by byte. -/
theorem statusSnapshot : Obligations.StatusSnapshot := by
  intro s x hopen
  have tx : s.tx.freeCount = countIn (fun slot => slot = TxSlot.free) s.tx.pool := by
    refine congrArg (countIn · s.tx.pool) (funext fun slot => ?_)
    cases slot <;> rfl
  have rx : s.rx.freeCount = countIn (fun slot => slot = RxSlot.free) s.rx.pool := by
    refine congrArg (countIn · s.rx.pool) (funext fun slot => ?_)
    cases slot <;> rfl
  rw [exec_status, ← tx, ← rx, ← faults_byte_eq]
  exact onCommand_taken_answers hopen rfl

/-- Settles O24: the peer record, byte by byte. -/
theorem peersSnapshot : Obligations.PeersSnapshot := by
  intro s x p hopen
  have changed : BitVec.ofNat 8 (s.entry p).changed.toNat = if (s.entry p).changed then 0x01 else 0x00 := by
    cases (s.entry p).changed <;> rfl
  rw [exec_peers, changed, ← bytesOf16_eq, ← bytesOf16_eq]
  refine onCommand_taken_answers hopen ?_
  rw [peersEffect, stationOf_ofNat]
  rfl

/-- A flag after a read-clear: cleared if it was shown set and not set again since (R145). -/
theorem readClear_get (now shown since : FaultFlags) (f : FaultName) :
    (now.readClear shown since).get f = if shown.get f = true ∧ since.get f = false then false else now.get f := by
  have h : ∀ a b c : Bool, (a && !(b && !c)) = if b = true ∧ c = false then false else a := by decide
  cases f <;> exact h _ _ _

/-- Settles O23: the two read-clears of a reply read whole. -/
theorem fullReadsClear : Obligations.FullReadsClear := by
  intro s x htxn
  rw [exec_statusReadClear, exec_peersReadClear]
  refine ⟨fun shown since errors hcommand => ?_, fun p since hcommand => ?_⟩
  · have heffect : statusReadClearEffect s =
        { s with
          control := { s.control with faults := s.control.faults.readClear shown since }
          line := { s.line with errors := s.line.errors - errors } }.setCommand (.status shown errors since true) := by
      simp only [statusReadClearEffect, State.command, htxn, Option.map_some, hcommand]
    rw [heffect]
    exact ⟨_, done_eq _, readClear_get _ shown since, rfl, rfl, answers_setCommand htxn _ rfl, by simp [OnlyWrites]⟩
  · have heffect : peersReadClearEffect s =
        (if since then s else s.setEntry p { s.entry p with changed := false }).setCommand (.peers p since true) := by
      simp only [peersReadClearEffect, State.command, htxn, Option.map_some, hcommand]
    rw [heffect]
    refine ⟨_, done_eq _, ?_⟩
    cases since with
    | true => exact ⟨rfl, fun _ _ => rfl, answers_setCommand htxn _ rfl, by simp [OnlyWrites]⟩
    | false =>
      have hsession : (s.setEntry p { s.entry p with changed := false }).session =
          put s.session p { s.entry p with changed := false } := rfl
      exact ⟨entry_put (s := s) hsession, othersKeep_put hsession, answers_setCommand htxn _ rfl, by simp [OnlyWrites]⟩

/-! ## MASK and unknown commands -/

/-- Settles O26: a MASK, and a transaction that ends before its byte. -/
theorem maskIsReplaced : Obligations.MaskIsReplaced := by
  intro s x value hopen
  obtain ⟨htxn, -⟩ := openTxn_some hopen
  rw [exec_mask]
  have heffect : maskEffect value s = { s with control := { s.control with mask := value } }.decided .ok := rfl
  refine ⟨⟨_, onCommand_next hopen heffect, rfl, ends_decided htxn .ok rfl, ?_⟩, ?_⟩
  · simp [OnlyWrites]
  · obtain ⟨u, hnext, hshort, hcontrol, -⟩ := transactionEnd_short hopen
    exact ⟨u, hnext, hshort, congrArg _ (hcontrol (by simp))⟩

/-- Settles O27: a byte that names no command takes the transaction with zeros, and it ends UNKNOWN. -/
theorem unknownCommandTakesNothing : Obligations.UnknownCommandTakesNothing := by
  intro s x code law hopen unnamed
  have heffect : (if namesCommand code then s else s.taken .unknown []) = s.taken .unknown [] :=
    if_neg (by simpa [namesCommand, commandCodes] using unnamed)
  obtain ⟨htxn, -⟩ := openTxn_some hopen
  obtain ⟨hcs, hrst⟩ := law.1 (by rw [htxn]; rfl)
  rw [exec_unknownCommand]
  obtain ⟨t, hnext, hanswers, hwrites⟩ :=
    onCommand_taken_answers hopen (effect := fun t => if namesCommand code then t else t.taken .unknown []) heffect
  obtain ⟨u, hrise⟩ := transactionEnd_writes_result (txn_of_answers hanswers)
  exact ⟨t, u, hnext, hanswers, hwrites, fun k => miso_of_answers hanswers hcs hrst k, hrise⟩

/-! ## The two ends of a transaction -/

/-- MISO is undriven unless CS is low and RST high (R137, R161). -/
theorem miso_undriven {t : State} (h : t.port.cs = .high ∨ t.port.rst = .low) (k : Nat) : t.miso k = none := by
  refine if_neg fun ⟨hcs, hrst⟩ => ?_
  obtain h | h := h
  · simp [hcs] at h
  · simp [hrst] at h

/-- Settles O28: by the levels of CS and RST. -/
theorem transactionBeginSamplesSummary : Obligations.TransactionBeginSamplesSummary := by
  intro s
  rw [exec_transactionBegin]
  refine ⟨fun hcs hrst => ?_, fun hcs hrst => ?_, fun hcs => ?_⟩
  · have heffect : s.beginTransaction = { s with port := { s.port with cs := .low, txn := some ⟨s.summary, .none, []⟩ } } := by
      simp only [State.beginTransaction, hcs, hrst]
    rw [heffect]
    have driven : ∀ t : State, PortBecomes { s.port with cs := .low, txn := some ⟨s.summary, .none, []⟩ } t →
        ∀ k : Nat, t.miso k = some (t.port.misoByte ⟨s.summary, .none, []⟩ k) := by
      intro t ht k
      have hrst' : t.port.rst = .high := (congrArg HostPort.rst ht).trans hrst
      have htxn : t.port.txn = some ⟨s.summary, .none, []⟩ := congrArg HostPort.txn ht
      rw [State.miso, if_pos ⟨congrArg HostPort.cs ht, hrst'⟩, htxn]
    refine ⟨_, s.summary, done_eq _, summary_bits s, rfl, driven _ ?_ 0, driven _ ?_ 1, fun k => driven _ ?_ (k + 2),
      by simp [OnlyWrites]⟩ <;> rfl
  · have heffect : s.beginTransaction = { s with port := { s.port with cs := .low } } := by
      simp only [State.beginTransaction, hcs, hrst]
    rw [heffect]
    exact ⟨_, done_eq _, rfl, miso_undriven (.inr hrst), by simp [OnlyWrites]⟩
  · have heffect : s.beginTransaction = s := by
      simp only [State.beginTransaction, hcs]
    rw [heffect]
    exact ⟨_, done_eq _, by simp [OnlyWrites]⟩

/-- Settles O29: the result is the command's, by how far it has come. -/
theorem transactionEndWritesResult : Obligations.TransactionEndWritesResult := by
  intro s
  rw [exec_transactionEnd]
  refine ⟨fun htxn => ?_, fun x htxn => ?_⟩
  · have hport : s.port.endTransaction = { s.port with cs := .high } := by simp only [HostPort.endTransaction, htxn]
    rw [hport]
    exact ⟨_, done_eq _, rfl, miso_undriven (.inl rfl), by simp [OnlyWrites]⟩
  · have hport : s.port.endTransaction =
        { s.port with cs := .high, txn := none, prevResult := x.command.result } := by
      simp only [HostPort.endTransaction, htxn]
    rw [hport]
    refine ⟨_, x.command.result, done_eq _, rfl, miso_undriven (.inl rfl), by simp [OnlyWrites], ?_⟩
    refine ⟨?_, ?_, ?_, ?_, ?_, ?_, ?_⟩ <;> intros <;> simp only [*, TxnCommand.result]

/-- Settles O30: every host command's effect goes through `onCommand`. -/
theorem hostCommandNeedsTransaction : Obligations.HostCommandNeedsTransaction := by
  intro c s host hclosed
  have unchanged : ∃ t : State, done s = .next t ∧ OnlyWrites [] s t := ⟨_, done_eq s, by simp [OnlyWrites]⟩
  have ignored : ∀ effect : State → State, ∃ t : State, done (s.onCommand effect) = .next t ∧ OnlyWrites [] s t := by
    intro effect
    rw [onCommand_closed hclosed]
    exact unchanged
  cases c
  case configure | start | leave | reset | submit | cancel | completions | take | peek | status | peers | mask |
    unknownCommand => exact ignored _
  all_goals simp [isHostCommand, mosiOf] at host

end Sys2Proof.Machine

/-! PROOFS. Selection (R112 to R116): the commands that bring one about come down to one selection on an idle line, and what
is offered there decides the frame built. -/

namespace Sys2Proof.Machine

/-! ## The commands that select -/

/-- `s` with the yield flag and the marker as given: no selecting command changes more before it selects. -/
def State.before (s : State) (yield marker : Bool) : State :=
  { s with arb := { s.arb with yield := yield }, line := { s.line with marker := marker } }

section Selects
variable {i : Instr} {s u : State}

/-- A command that brings about a selection changes no more than the yield flag and the marker before it, and then selects
on an idle line (R112, R115, R125). -/
theorem selectsFrom_cases (h : SelectsFrom i s u) :
    (∃ yield marker : Bool, u = s.before yield marker) ∧
    exec i s = done (u.setLine .idle).selectAndBuild ∧
    (s.control.station = .active ∨ s.control.station = .leaving) ∧ s.line.outbound = none := by
  obtain ⟨station, outbound, ⟨rfl, idle, rfl⟩ | ⟨rfl, between, rfl⟩ | ⟨rfl, idle, rfl⟩⟩ := h
  · have same : u.setLine .idle = u := by simp only [State.setLine, ← idle]
    exact ⟨⟨_, _, rfl⟩, by rw [same, exec_frameBuild], station, outbound⟩
  · have heffect : idleBegunEffect s = ((s.setMarker false).setLine .idle).selectAndBuild := by
      unfold idleBegunEffect
      cases hl : s.line.state with
      | receiving phase =>
        cases phase with
        | frame => simp [hl, LineState.isBetweenFrames] at between
        | unsynchronized | gap | passing => rfl
      | silent | idle | contending | transmitting => simp [hl, LineState.isBetweenFrames] at between
    exact ⟨⟨_, _, rfl⟩, by rw [exec_idleBegun, heffect]; rfl, station, outbound⟩
  · have same : (s.idleEnded).setLine .idle = s.idleEnded := by simp only [State.setLine, State.idleEnded, ← idle]
    refine ⟨⟨_, _, rfl⟩, ?_, station, outbound⟩
    rw [exec_windowOut, windowOutEffect, if_pos idle, ← same]
    rfl

/-- Where a source offers a frame, it is built (R112, R116). -/
theorem selectsFrom_builds (h : SelectsFrom i s u) {ch : Choice} (hsel : (u.setLine .idle).select = some ch) :
    exec i s = .next ((u.setLine .idle).build ch).driveAttn ∧
      Contends (((u.setLine .idle).arb.take ch).inHand.elim .announce InHand.kind) (s.frameOf ch) u
        ((u.setLine .idle).build ch).driveAttn ∧
      OnlyWrites [.arb, .tx, .line] s ((u.setLine .idle).build ch).driveAttn := by
  obtain ⟨⟨yield, marker, rfl⟩, hexec, station, outbound⟩ := selectsFrom_cases h
  rw [hexec, selectAndBuild_some (s := (s.before yield marker).setLine .idle) station rfl outbound hsel, done_eq]
  refine ⟨rfl, ⟨?_, ?_⟩, by simp [OnlyWrites, State.before]⟩
  · cases ch <;> rfl
  · cases ch <;> rfl

end Selects

/-! ## The statements -/

/-- Settles O31: the choice of each control frame, from its claim and its pointer. -/
theorem controlFramesInOrder : Obligations.ControlFramesInOrder := by
  intro i s u h
  obtain ⟨⟨yield, marker, hu⟩, -⟩ := selectsFrom_cases h
  have built := fun ch => selectsFrom_builds (ch := ch) h
  subst hu
  refine ⟨fun active announce => ?_, fun first p c served claim => ?_, fun active announce severs p served => ?_,
    fun active announce severs joins p served => ?_⟩
  · obtain ⟨hexec, hcontends, hwrites⟩ := built .announce (select_announce active announce)
    exact ⟨_, hexec, hcontends, rfl, rfl, hwrites⟩
  · have offered : s.control.station = .active ∧ s.arb.announce = false ∨ s.control.station = .leaving := by
      obtain ⟨hactive | hleaving, -⟩ := h
      · exact first.elim .inr fun ha => .inl ⟨hactive, ha⟩
      · exact .inr hleaving
    obtain ⟨hexec, hcontends, hwrites⟩ := built (.sever p c) (select_sever offered served claim)
    exact ⟨_, hexec, hcontends, rfl, rfl, hwrites⟩
  · obtain ⟨hexec, hcontends, hwrites⟩ := built (.join p) (select_join active announce severs served)
    exact ⟨_, hexec, hcontends, rfl, rfl, hwrites⟩
  · obtain ⟨hexec, hcontends, hwrites⟩ := built (.tally p) (select_tally active announce severs joins served)
    refine ⟨_, mapAll (fun r : RxRecord => (⟨r.accepted, r.limit⟩ : TallyPair)) (look s.rx.records p), hexec, fun c => ?_, hcontends, rfl, rfl, hwrites⟩
    rw [look_mapAll]
    rfl

/-- The head of a send queue built: SENDING, tied to its frame (R74, R90). -/
theorem tieFirst_eq {tx : TransmitUnit} {i : TxIx} {r : TxRecord} (p : Station) (c : Cls)
    (h : look tx.pool i = .held r) :
    tx.tieFirst p c i =
      { tx with
        pool := put tx.pool i (.held { r with state := .sending })
        queues := put2 tx.queues p c (look2 tx.queues p c).tail
        sending := some i
        tie := some ⟨i, p, c, (look2 tx.counters p c).next, true⟩ } := by
  simp [TransmitUnit.tieFirst, changeSlot_eq, h]

/-- The payload of a frame built from a slot is its record's (R90). -/
theorem payload_of_slot {tx : TransmitUnit} {i : TxIx} {r : TxRecord} (h : look tx.pool i = .held r) :
    ((tx.slot i).map (·.payload)).getD [] = r.payload := by
  rw [(slot_iff _ _ _).mpr h]
  rfl

/-- Settles O32: the data served is the sendable of the peer served. -/
theorem dataFramesInOrder : Obligations.DataFramesInOrder := by
  intro i s u p c h hserved
  obtain ⟨⟨yield, marker, hu⟩, -⟩ := selectsFrom_cases h
  have built := fun ch => selectsFrom_builds (ch := ch) h
  obtain ⟨offered, lower, first⟩ := hserved
  have served : (u.setLine .idle).select = (u.setLine .idle).sendable p c :=
    (select_data (s := u.setLine .idle) offered).trans (selectData_served (u.setLine .idle) p c lower first)
  subst hu
  refine ⟨fun j head r hslot => ?_, fun q due => ?_⟩
  · have hsel := served.trans (sendable_first _ p c head)
    obtain ⟨hexec, hcontends, hwrites⟩ := built (.first p c j) hsel
    refine ⟨_, hexec, ?_, rfl, tieFirst_eq p c hslot, hwrites⟩
    rw [← payload_of_slot hslot]
    exact hcontends
  · obtain ⟨j, hdue, hsend⟩ := sendable_resend ((s.before yield marker).setLine .idle) p c due
    have hsel := served.trans hsend
    obtain ⟨hexec, hcontends, hwrites⟩ := built (.resend p c j q) hsel
    obtain ⟨r, hslot, -⟩ := carries_iff.mp (show s.tx.carries q j = true from hdue.2.2.2)
    refine ⟨_, j, r, hexec, hdue, hslot, ?_, rfl, rfl, hwrites⟩
    rw [← payload_of_slot hslot]
    exact hcontends

/-- Settles O33: with nothing offered the selection leaves the idle line. -/
theorem selectionOfNothing : Obligations.SelectionOfNothing := by
  refine ⟨fun i s u h quiet severs => ?_, fun s frame => ?_⟩
  · obtain ⟨⟨yield, marker, rfl⟩, hexec, station, -⟩ := selectsFrom_cases h
    have none : ((s.before yield marker).setLine .idle).select = none := by
      refine select_none ?_ severs
      obtain hleaving | ⟨announce, claims, hyield | hdata⟩ := quiet
      · exact .inl (by simp [State.before, hleaving])
      · exact .inr ⟨announce, claims, .inl hyield⟩
      · exact .inr ⟨announce, claims, .inr (selectData_none _ hdata)⟩
    rw [hexec, selectAndBuild_none none]
    exact ⟨_, done_eq _, rfl, rfl, by simp [OnlyWrites, State.before]⟩
  · have none : idleBegunEffect s = s := by simp only [idleBegunEffect, frame]
    rw [exec_idleBegun, none]
    exact ⟨_, done_eq _, by simp [OnlyWrites]⟩

end Sys2Proof.Machine

/-! PROOFS. The ends of this station's own frames: won, lost, aborted, the eighth failure (R91 to R95, R117, R118, R126 to
R129), and the start bits and discarded frames of other stations (R125, R132, R133). -/

namespace Sys2Proof.Machine

/-! ## The Transmit Unit at the end of a frame -/

section Ends
variable {tx : TransmitUnit} {k : Tie} {r : TxRecord}

theorem startIfStopped_eq (t : Timer) (v : Nat) : t.startIfStopped v = if t = .stopped then .running (v + 1) else t := by
  cases t <;> rfl

/-- The resend point after the win of a resend of seq `q`: moved where it stands at `q` (R92). -/
theorem afterResendWon_eq (c : SendCounters) (q : Count) :
    c.afterResendWon q =
      { c with resend := if c.resend = some q then if q + 1 = c.next then none else some (q + 1) else c.resend } := by
  unfold SendCounters.afterResendWon
  by_cases h : c.resend = some q
  · rw [if_pos h, if_pos h]
  · rw [if_neg h, if_neg h]

/-- The resend point after the abort of seq `q`: set where it is absent or later (R94). -/
theorem afterAbort_eq (c : SendCounters) (q : Count) :
    c.afterAbort q =
      { c with
        resend :=
          match c.resend with
          | none => some q
          | some p => if dist c.acked q < dist c.acked p then some q else some p } := by
  obtain ⟨next, acked, limit, resend⟩ := c
  cases resend with
  | none => rfl
  | some p =>
    simp only [SendCounters.afterAbort]
    split <;> rfl

/-- The win of a tied first transmission (R91, R101). -/
theorem won_first (ht : tx.tie = some k) (hk : k.first = true) (hr : look tx.pool k.slot = .held r) (ackTimeout : Nat) :
    tx.won ackTimeout =
      { tx with
        pool := put tx.pool k.slot
          (.held { r with state := .inFlight (look2 tx.counters k.peer k.cls).next, transmitCount := 1 })
        flights := put2 tx.flights k.peer k.cls (look2 tx.flights k.peer k.cls ++ [k.slot])
        counters := put2 tx.counters k.peer k.cls
          { look2 tx.counters k.peer k.cls with next := (look2 tx.counters k.peer k.cls).next + 1 }
        ackTimers := put tx.ackTimers k.peer
          (if look tx.ackTimers k.peer = .stopped then .running (ackTimeout + 1) else look tx.ackTimers k.peer)
        sending := none } := by
  rw [← startIfStopped_eq]
  simp only [TransmitUnit.won, ht, hk, if_true, TransmitUnit.winFirst, changeSlot_eq, hr, change_held, alter]

/-- The win of a tied resend (R92, R101). -/
theorem won_resend (ht : tx.tie = some k) (hk : k.first = false) (hr : look tx.pool k.slot = .held r) (ackTimeout : Nat) :
    tx.won ackTimeout =
      { tx with
        pool := put tx.pool k.slot
          (.held { r with transmitCount := if r.transmitCount < 16 then r.transmitCount + 1 else 16 })
        counters := put2 tx.counters k.peer k.cls
          { look2 tx.counters k.peer k.cls with
            resend :=
              if (look2 tx.counters k.peer k.cls).resend = some k.seq then
                if k.seq + 1 = (look2 tx.counters k.peer k.cls).next then none else some (k.seq + 1)
              else (look2 tx.counters k.peer k.cls).resend }
        ackTimers := put tx.ackTimers k.peer
          (if look tx.ackTimers k.peer = .stopped then .running (ackTimeout + 1) else look tx.ackTimers k.peer) } := by
  have count : (if r.transmitCount < 16 then r.transmitCount + 1 else 16) =
      min Config.maxTransmitCount (r.transmitCount + 1) := by
    simp only [Config.maxTransmitCount]
    split <;> omega
  rw [← startIfStopped_eq, ← afterResendWon_eq, count]
  simp only [TransmitUnit.won, ht, hk, TransmitUnit.winResend, changeSlot_eq, hr, change_held, alter, Bool.false_eq_true,
    if_false]

theorem won_detached (ht : tx.tie = none) (ackTimeout : Nat) : tx.won ackTimeout = tx := by
  rw [TransmitUnit.won, ht]

/-- The loss of a tied first transmission (R93). -/
theorem lost_first (ht : tx.tie = some k) (hk : k.first = true) (hr : look tx.pool k.slot = .held r) :
    tx.lost =
      { tx with
        pool := put tx.pool k.slot (.held { r with state := .queued, transmitCount := 0 })
        queues := put2 tx.queues k.peer k.cls (k.slot :: look2 tx.queues k.peer k.cls)
        sending := none
        tie := none } := by
  simp only [TransmitUnit.lost, ht, hk, if_true, changeSlot_eq, hr, change_held]

theorem lost_resend (ht : tx.tie = some k) (hk : k.first = false) : tx.lost = { tx with tie := none } := by
  simp only [TransmitUnit.lost, ht, hk, Bool.false_eq_true, if_false]

theorem lost_detached (ht : tx.tie = none) : tx.lost = tx := by rw [TransmitUnit.lost, ht]

/-- The abort of a tied frame (R94). -/
theorem aborted_tied (ht : tx.tie = some k) :
    tx.aborted =
      { tx with
        tie := none
        counters := put2 tx.counters k.peer k.cls
          { look2 tx.counters k.peer k.cls with
            resend :=
              match (look2 tx.counters k.peer k.cls).resend with
              | none => some k.seq
              | some q =>
                if dist (look2 tx.counters k.peer k.cls).acked k.seq < dist (look2 tx.counters k.peer k.cls).acked q then
                  some k.seq
                else some q } } := by
  simp only [TransmitUnit.aborted, ht]
  rw [afterAbort_eq]

theorem aborted_detached (ht : tx.tie = none) : tx.aborted = tx := by rw [TransmitUnit.aborted, ht]

end Ends

/-! ## The win -/

theorem frameWonEffect_contending {s : State} (h : s.line.state = .contending) :
    frameWonEffect s = s.idleEnded.passWin.setLine .transmitting := if_pos h

/-- Settles O34: the win of a MESSAGE is passed to the Transmit Unit, which takes it by the frame's tie. -/
theorem winOfAMessage : Obligations.WinOfAMessage := by
  intro s p withdrawn contending hand
  have passed : s.idleEnded.passWin = { s.idleEnded with tx := s.tx.won s.record.ackTimeout } := by
    simp only [State.passWin, idleEnded_arb, hand]
    rfl
  rw [exec_frameWon, frameWonEffect_contending contending, passed]
  refine ⟨_, done_eq _, rfl, rfl, by simp [OnlyWrites], fun ht => won_detached ht _, fun k r ht hr => ⟨fun hk => ?_, fun hk => ?_⟩⟩
  · exact won_first ht hk hr _
  · exact won_resend ht hk hr _

/-- Settles O35: of the control frames only a TALLY not withdrawn, to an OPEN peer, is passed on. -/
theorem winOfAControlFrame : Obligations.WinOfAControlFrame := by
  intro s k withdrawn contending hand control
  rw [exec_frameWon, frameWonEffect_contending contending]
  by_cases tally : ∃ p : Station, k = .tally p ∧ withdrawn = false ∧ (s.entry p).state = .opened
  · obtain ⟨p, rfl, rfl, opened⟩ := tally
    have passed : s.idleEnded.passWin =
        s.idleEnded.setEntry p { s.entry p with refreshTimer := .running (s.record.refreshInterval + 1) } := by
      simp only [State.passWin, idleEnded_arb, hand]
      exact if_pos (decide_eq_true opened)
    rw [passed]
    refine ⟨_, done_eq _, rfl, rfl, fun q => ?_, by simp [OnlyWrites]⟩
    by_cases hq : q = p
    · subst hq
      rw [if_pos ⟨rfl, rfl, opened⟩]
      exact entry_put (s := s) rfl
    · rw [if_neg (fun ⟨hk, _⟩ => hq (HandKind.tally.inj hk).symm)]
      exact othersKeep_put (s := s) (p := p) rfl q hq
  · have passed : s.idleEnded.passWin = s.idleEnded := by
      unfold State.passWin
      rw [idleEnded_arb, hand]
      cases k with
      | message p => exact absurd rfl (control p)
      | announce | sever | join => rfl
      | tally p =>
        cases withdrawn with
        | true => rfl
        | false =>
          exact if_neg fun ho => tally ⟨p, rfl, rfl, of_decide_eq_true ho⟩
    rw [passed]
    refine ⟨_, done_eq _, rfl, rfl, fun q => ?_, by simp [OnlyWrites]⟩
    rw [if_neg (fun h => tally ⟨q, h⟩)]
    rfl

/-! ## The loss and the abort -/

theorem frameLostEffect_lost {s : State} {cause : LossCause} (h : s.line.state = .contending) (hc : cause ≠ .driveFault) :
    frameLostEffect cause s = s.loseFrame .frame := by
  cases cause with
  | driveFault => exact absurd rfl hc
  | earlierStart | arbitration => exact if_pos h

/-- Settles O36: the claim goes back to the arbiter, the slot to its queue. -/
theorem lossRestoresClaimAndSlot : Obligations.LossRestoresClaimAndSlot := by
  intro s cause h contending notFault hand
  rw [exec_frameLost, frameLostEffect_lost contending notFault]
  exact ⟨_, done_eq _, rfl, giveBack_restored (a := { s.arb with yield := false }) hand _, fun ht => lost_detached ht,
    fun d r ht hr => ⟨fun hd => lost_first ht hd hr, fun hd => lost_resend ht hd⟩, by simp [OnlyWrites]⟩

/-- The count raised short of the eighth failure (R129). -/
theorem raiseAborts_below {s : State} (h : s.line.aborts < 7) :
    s.raiseAborts = { s with line := { s.line with aborts := s.line.aborts + 1 } } := by
  have hn : min Config.lineFaultAt (s.line.aborts + 1) = s.line.aborts + 1 := by simp only [Config.lineFaultAt]; omega
  rw [State.raiseAborts, hn]
  exact if_neg (by simp only [Config.lineFaultAt]; omega)

/-- The eighth failure in a row reports LINE_FAULT (R129, R158). -/
theorem raiseAborts_eighth {s : State} (h : s.line.aborts = 7) :
    s.raiseAborts = ({ s with line := { s.line with aborts := 8 } } : State).reportFault .lineFault := by
  rw [State.raiseAborts, h]
  rfl

/-- What an aborted frame leaves before the count is raised (R127). -/
def State.broken (s : State) : State := (s.abortedNotice.emptyBuffer.setMarker true).setLine (.receiving .gap)

/-- What a drive fault leaves before the count is raised (R126). -/
def State.faulted (s : State) : State := (s.loseFrame .gap).setMarker true

theorem frameAbortedEffect_transmitting {s : State} (h : s.line.state = .transmitting) :
    frameAbortedEffect s = s.broken.raiseAborts := if_pos h

theorem frameLostEffect_driveFault {s : State} (h : s.line.state = .contending) :
    frameLostEffect .driveFault s = s.faulted.raiseAborts := if_pos h

/-- Settles O38: the abort's notice, then the count short of the eighth. -/
theorem abortMarksResend : Obligations.AbortMarksResend := by
  intro s h transmitting below hand
  rw [exec_frameAborted, frameAbortedEffect_transmitting transmitting, raiseAborts_below (s := s.broken) below]
  exact ⟨_, done_eq _, rfl, rfl, giveBack_restored hand _, fun ht => aborted_detached ht, fun d ht => aborted_tied ht,
    by simp [OnlyWrites, State.broken, State.abortedNotice]⟩

/-! ## The eighth failure -/

/-- MUTED does not rest on the line's state, buffer and abort count, nor on ATTN. -/
theorem mutes_congr {f : FaultName} {s t u : State} (h : Mutes f s t)
    (hu : u = { s with line := u.line, port := { s.port with attn := u.port.attn } })
    (errors : u.line.errors = s.line.errors) (marker : u.line.marker = s.line.marker) : Mutes f u t.driveAttn := by
  obtain ⟨hcontrol, hclose, harb, hline, hport, hpending⟩ := h
  rw [hu]
  refine ⟨hcontrol, hclose, harb, ?_, portBecomes_driveAttn hport, hpending⟩
  simp only [driveAttn_line, errors, marker]
  exact hline

/-- The eighth failure, of a frame that has ended: the station is MUTED, the marker driven stays (R129, R158). -/
theorem raiseAborts_mutes {s u : State} (station : s.control.station = .active ∨ s.control.station = .leaving)
    (gap : s.line.state = .receiving .gap) (hand : s.arb.inHand = none) (marker : s.line.marker = true)
    (h7 : s.line.aborts = 7) (hu : u = { s with line := u.line, port := { s.port with attn := u.port.attn } })
    (errors : u.line.errors = s.line.errors) (hmarker : u.line.marker = true) :
    Mutes .lineFault u s.raiseAborts.driveAttn ∧ s.raiseAborts.line.aborts = 8 ∧
      s.raiseAborts.ltxBits = [false, false, false, false, false, false, false, false] := by
  obtain ⟨hmutes, hline⟩ := reportFault_mutes { s with line := { s.line with aborts := 8 } } .lineFault station
    (by simp [gap]) (by simp [gap]) hand
  rw [raiseAborts_eighth h7]
  refine ⟨mutes_congr hmutes hu errors (hmarker.trans marker.symm), by rw [hline], ?_⟩
  rw [State.ltxBits, hline]
  simp only [marker, if_true]
  rfl

/-- Settles O39: the drive fault against an arbitration loss, and the eighth failure against the same at count 0. -/
theorem eighthFailureMutes : Obligations.EighthFailureMutes := by
  intro s station
  refine ⟨fun contending below => ?_, fun i failure h7 => ?_⟩
  · rw [exec_frameLost, exec_frameLost, frameLostEffect_driveFault contending,
      raiseAborts_below (s := s.faulted) below, frameLostEffect_lost contending (by simp)]
    exact ⟨_, _, done_eq _, done_eq _, rfl, rfl⟩
  · obtain ⟨rfl, contending⟩ | ⟨rfl, transmitting⟩ := failure
    · rw [exec_frameLost, exec_frameLost, frameLostEffect_driveFault contending, frameLostEffect_driveFault (by exact contending),
        raiseAborts_below (s := State.faulted { s with line := { s.line with aborts := 0 } }) (show 0 < 7 by decide)]
      exact ⟨_, _, done_eq _, done_eq _, raiseAborts_mutes (s := s.faulted) station rfl giveBack_inHand rfl h7 rfl rfl rfl⟩
    · rw [exec_frameAborted, exec_frameAborted, frameAbortedEffect_transmitting transmitting,
        frameAbortedEffect_transmitting (by exact transmitting), raiseAborts_below (s := State.broken { s with line := { s.line with aborts := 0 } }) (show 0 < 7 by decide)]
      exact ⟨_, _, done_eq _, done_eq _, raiseAborts_mutes (s := s.broken) station rfl giveBack_inHand rfl h7 rfl rfl rfl⟩

/-! ## Start bits and discarded frames -/

/-- Settles O40: by the line state in which the bit or the frame is read. -/
theorem startBitsAndDiscards : Obligations.StartBitsAndDiscards := by
  intro s
  refine ⟨fun idle => ?_, fun gap => ?_, fun frame cls => ?_⟩
  · have reading : s.reading = some (s.idleEnded.setLine (.receiving .frame)) := by simp only [State.reading, idle]
    rw [exec_startBitReceived, reading]
    exact ⟨_, done_eq _, rfl, rfl, by simp [OnlyWrites]⟩
  · have reading : s.reading = some ((s.setMarker false).setLine (.receiving .frame)) := by simp only [State.reading, gap]
    rw [exec_startBitReceived, reading]
    exact ⟨_, done_eq _, rfl, by simp [OnlyWrites]⟩
  · have errors : min Config.maxLineErrors (s.line.errors + 1) = if s.line.errors < 255 then s.line.errors + 1 else 255 := by
      simp only [Config.maxLineErrors]
      split <;> omega
    have discarded : s.frameDiscarded = { s with line := { s.line with
        state := .receiving .passing, errors := if s.line.errors < 255 then s.line.errors + 1 else 255 } } := by
      simp only [State.frameDiscarded, State.reading, frame, errors]
      rfl
    rw [exec_frameDiscard, discarded]
    exact ⟨_, done_eq _, rfl, by simp [OnlyWrites]⟩

end Sys2Proof.Machine

/-! PROOFS. The good frames of other stations: how each of the commands comes down to its handler in the station's state and
line phase (R7, R8, R126, R134, R135), and what ANNOUNCE, JOIN, SEVER and stale frames do by the state of their sender's
entry (R15 to R23). -/

namespace Sys2Proof.Machine

/-! ## A frame and its start bit -/

section Reading
variable {s r : State}

/-- Where the line assembles a frame, the frame ends as it does after its start bit. -/
theorem frameReceived_reading (h : s.reading = some r) (p : Station) (active leaving : State → State) :
    s.frameReceived p active leaving = r.frameReceived p active leaving := by
  simp only [State.frameReceived, h, reading_reading h]

theorem frameDiscarded_reading (h : s.reading = some r) : s.frameDiscarded = r.frameDiscarded := by
  simp only [State.frameDiscarded, h, reading_reading h]

theorem frameDiscarded_deaf (h : s.reading = none) : s.frameDiscarded = s := by
  simp only [State.frameDiscarded, h]

end Reading

/-- A reception is a discarded frame or a good one from some station, whatever the state. -/
theorem exec_reception {c : Instr} (h : isReception c = true) :
    (∀ s : State, exec c s = done s.frameDiscarded) ∨
      ∃ (p : Station) (active leaving : State → State), ∀ s : State, exec c s = done (s.frameReceived p active leaving) := by
  cases c with
  | frameDiscard cls => exact .inl fun s => rfl
  | announceReceived p incarnation => exact .inr ⟨p, _, _, fun s => exec_announceReceived s p incarnation⟩
  | joinReceived p a b => exact .inr ⟨p, _, _, fun s => exec_joinReceived s p a b⟩
  | severReceived p a b reason => exact .inr ⟨p, _, _, fun s => exec_severReceived s p a b reason⟩
  | tallyReceived p a b pairs => exact .inr ⟨p, _, _, fun s => exec_tallyReceived s p a b pairs⟩
  | messageReceived p a b cls seq payload =>
    by_cases bad : payload.length = 0 ∨ Config.maxPayload < payload.length
    · exact .inl fun s => by rw [exec_messageReceived, if_pos bad]
    · exact .inr ⟨p, _, _, fun s => by rw [exec_messageReceived, if_neg bad]⟩
  | frameAddressedToAnotherStation kind p =>
    exact .inr ⟨p, _, _, fun s => exec_frameAddressedToAnotherStation s kind p⟩
  | _ => simp [isReception] at h

/-- Settles O41: a reception looks no further than the state after its start bit. -/
theorem receptionFromAnyPhase : Obligations.ReceptionFromAnyPhase := by
  intro c s u hc level hstart
  rw [exec_startBitReceived, done_eq] at hstart
  obtain rfl := Host.Outcome.next.inj hstart
  refine ⟨?_, fun contending => ?_, fun deaf => ?_⟩
  · cases hr : s.reading with
    | none => rw [Option.getD_none, driveAttn_of_level level]
    | some r =>
      obtain ⟨-, hport, -, -, -, -, hattn⟩ := reading_spec hr
      rw [Option.getD_some, driveAttn_of_level (by rw [hport, hattn, level])]
      obtain hd | ⟨p, active, leaving, hg⟩ := exec_reception hc
      · rw [hd, hd, frameDiscarded_reading hr]
      · rw [hg, hg, frameReceived_reading hr]
  · have reading : s.reading = some (s.loseFrame .frame) := by simp only [State.reading, contending]
    rw [exec_startBitReceived, reading, exec_frameLost, frameLostEffect_lost contending (by simp)]
    rfl
  · have none : s.reading = none := by
      obtain h | h | h | h := deaf <;> simp only [State.reading, h]
    have still : done s = .next s := by rw [done_eq, driveAttn_of_level level]
    obtain hd | ⟨p, active, leaving, hg⟩ := exec_reception hc
    · rw [hd, frameDiscarded_deaf none, still]
    · rw [hg, frameReceived_deaf none, still]

/-! ## What a frame's end writes -/

section Heard
variable {s t : State} {p : Station}

/-- A frame that does no more than show its sender lives (R8). -/
theorem heard_alone (s : State) (p : Station) :
    (s.afterFrame p).driveAttn.entry p = s.heardEntry p ∧ OthersKeep p s (s.afterFrame p).driveAttn ∧
      FrameEnded s (s.afterFrame p).driveAttn ∧ OnlyWrites [.session, .line] s (s.afterFrame p).driveAttn :=
  heard_frameEnded_onlyWrites rfl rfl (by simp [OnlyWrites])

/-- The SENDING slot is in flight in no class (R69, R73). -/
theorem sending_not_inFlight (law : SlotLaw s) : ∀ i ∈ s.tx.sending, ∀ c : Cls, i ∉ look2 s.tx.flights p c := by
  obtain ⟨hlists, hsending, -⟩ := law
  intro i hi c hc
  have h1 := (hsending i).mp hi
  have h2 := ((hlists p c).2.2.2 i).mp hc
  cases hl : look s.tx.pool i with
  | free => simp [hl, TxSlot.isSending] at h1
  | held r => cases hr : r.state <;> simp [hl, hr, TxSlot.isSending, TxSlot.isInFlightTo] at h1 h2

/-- No slot is in flight in two classes (R69, R77). -/
theorem inFlight_one_class (law : SlotLaw s) :
    ∀ c d : Cls, c ≠ d → ∀ i ∈ look2 s.tx.flights p c, i ∉ look2 s.tx.flights p d := by
  obtain ⟨hlists, -⟩ := law
  intro c d hcd i hc hd
  have h1 := ((hlists p c).2.2.2 i).mp hc
  have h2 := ((hlists p d).2.2.2 i).mp hd
  cases hl : look s.tx.pool i with
  | free => simp [hl, TxSlot.isInFlightTo] at h1
  | held r =>
    simp only [hl, TxSlot.isInFlightTo, Bool.and_eq_true, decide_eq_true_eq] at h1 h2
    exact hcd (h1.1.2.symm.trans h2.1.2)

/-- A frame of the sender's that starts a fresh JOINING of an entry not OPEN (R9). -/
theorem freshJoining_of_frame (closed : (s.entry p).state ≠ .opened) (peerTag : Tag) :
    FreshlyJoins p peerTag (s.entry p) s ((s.afterFrame p).freshJoining p peerTag).driveAttn ∧
      ((s.afterFrame p).freshJoining p peerTag).driveAttn.arb = { s.arb with joins := put s.arb.joins p true } ∧
      FrameEnded s ((s.afterFrame p).freshJoining p peerTag).driveAttn ∧
      OnlyWrites [.control, .session, .arb, .line] s ((s.afterFrame p).freshJoining p peerTag).driveAttn := by
  rw [afterFrame_of_not_open s p closed]
  obtain ⟨joins, arb⟩ := freshJoining_joins (s.setLine (.receiving .gap)) p peerTag
  exact ⟨joins, arb, rfl, by simp [OnlyWrites]⟩

/-- A frame of the sender's that restarts its session (R13). -/
theorem restart_of_frame (law : SlotLaw s) (peerTag : Tag) :
    Restarts p peerTag s ((s.afterFrame p).restartSession p peerTag).driveAttn ∧
      FrameEnded s ((s.afterFrame p).restartSession p peerTag).driveAttn ∧
      OnlyWrites [.control, .session, .rx, .tx, .arb, .line, .port] s
        ((s.afterFrame p).restartSession p peerTag).driveAttn := by
  refine ⟨restarts_driveAttn (restarts_afterFrame (restartSession_restarts (s.afterFrame p) p peerTag ?_)), ?_, ?_⟩
  · simpa using sending_not_inFlight (p := p) law
  · simp [FrameEnded, State.restartSession]
  · simp [OnlyWrites, State.restartSession]

/-- A frame of the sender's that closes its session for a reason other than RESTART (R11). -/
theorem close_of_frame {reason : CloseReason} (notRestart : reason ≠ .restart) :
    Closes reason (closeDestination reason (s.entry p).state)
        ((closeSever reason (s.entry p).state).map (s.entry p).severFor) p s
        ((s.afterFrame p).closeSession reason p).driveAttn ∧
      FrameEnded s ((s.afterFrame p).closeSession reason p).driveAttn ∧
      OnlyWrites [.session, .rx, .tx, .arb, .line, .port] s ((s.afterFrame p).closeSession reason p).driveAttn := by
  have closes := closeSession_closes (s.afterFrame p) notRestart p
  have sever : ((s.afterFrame p).entry p).severFor = (s.entry p).severFor := by
    funext r
    simp [PeerEntry.severFor]
  rw [sever, afterFrame_entry, heardEntry_state] at closes
  exact ⟨closes_driveAttn (closes_afterFrame closes), by simp [FrameEnded], by simp [OnlyWrites]⟩

end Heard

/-! ## ANNOUNCE -/

/-- Settles O42: by whether the sender's entry is OPEN. -/
theorem announceByState : Obligations.AnnounceByState := by
  intro s p incarnation hears
  rw [exec_announceReceived, frameReceived_active hears]
  refine ⟨fun closed => ?_, fun opened law => ?_⟩
  · rw [handleAnnounce_other (by simpa using closed)]
    exact ⟨_, done_eq _, freshJoining_of_frame closed 0⟩
  · rw [handleAnnounce_opened (by simpa using opened)]
    exact ⟨_, done_eq _, restart_of_frame law 0⟩

/-! ## JOIN -/

/-- Settles O43: by the state of the sender's entry. -/
theorem joinByState : Obligations.JoinByState := by
  intro s p srcTag yourTag hears
  rw [exec_joinReceived, frameReceived_active hears]
  refine ⟨fun ignored => ?_, fun absent tag => ?_, fun joining tag your own fits => ?_, fun joining tag other => ?_,
    fun opened tag known => ?_, fun opened tag new law => ?_⟩
  · rw [handleJoin_ignored (by simpa using ignored)]
    exact ⟨_, done_eq _, heard_alone s p⟩
  · rw [handleJoin_absent (by simpa using absent) tag]
    exact ⟨_, done_eq _, freshJoining_of_frame (by simp [absent]) srcTag⟩
  · have closed : (s.entry p).state ≠ .opened := by simp [joining]
    have returned : ((s.afterFrame p).entry p).returnedBy yourTag = true := by
      rw [afterFrame_entry, heardEntry_returnedBy]
      exact decide_eq_true ⟨your, own⟩
    rw [handleJoin_returned (by simpa using joining) tag returned,
      afterFrame_of_not_open s p closed]
    have hsession : ((s.setLine (.receiving .gap)).learnPeerTag p srcTag).session =
        put s.session p { s.entry p with peerTag := srcTag } := rfl
    obtain ⟨⟨hentry, hothers⟩, hreserve, hclaims, hport⟩ :=
      openSession_opens ((s.setLine (.receiving .gap)).learnPeerTag p srcTag) p fits
    rw [entry_put hsession] at hentry
    refine ⟨_, done_eq _, ⟨hentry, fun q hq => ?_⟩, hreserve, hclaims, portBecomes_driveAttn hport, rfl, ?_⟩
    · exact (hothers q hq).trans (othersKeep_put hsession q hq)
    · simp [OnlyWrites, State.learnPeerTag]
  · have closed : (s.entry p).state ≠ .opened := by simp [joining]
    have answered : (s.entry p).returnedBy yourTag = false := by
      simp only [PeerEntry.returnedBy, decide_eq_false_iff_not, not_and_or, not_not]
      exact other
    rw [handleJoin_answered (by simpa using joining) tag (by simpa using answered), afterFrame_of_not_open s p closed]
    have hsession : ((s.setLine (.receiving .gap)).learnPeerTag p srcTag).session =
        put s.session p { s.entry p with peerTag := srcTag } := rfl
    exact ⟨_, done_eq _, entry_put hsession, othersKeep_put hsession, rfl, rfl, by simp [OnlyWrites, State.learnPeerTag]⟩
  · rw [handleJoin_known (by simpa using opened) tag (by simpa using known)]
    obtain ⟨hentry, hothers, hended, hwrites⟩ := heard_frameEnded_onlyWrites
      (t := ((s.afterFrame p).claimTally p).driveAttn) (s := s) (p := p) (written := [.session, .arb, .line]) rfl rfl
      (by simp [OnlyWrites])
    exact ⟨_, done_eq _, hentry, hothers, by simp [Arbiter.claimTally], hended, hwrites⟩
  · rw [handleJoin_new (by simpa using opened) tag (by simpa using new)]
    exact ⟨_, done_eq _, restart_of_frame law srcTag⟩

/-! ## SEVER -/

/-- Settles O44: by whether the tags are the session's. -/
theorem severByTags : Obligations.SeverByTags := by
  intro s p srcTag dstTag reason hears
  rw [exec_severReceived, frameReceived_active hears]
  refine ⟨fun session own peer src dst => ?_, fun other => ?_⟩
  · have matched : (s.entry p).matchesTags srcTag dstTag = true := (matchesTags_iff _ _ _).mpr ⟨own, peer, src, dst⟩
    rw [handleSever_match (by simpa using matched) (by simpa using session)]
    exact ⟨_, done_eq _, close_of_frame (reason := .severed) (by simp)⟩
  · rw [handleSever_other (by simpa using not_session other)]
    exact ⟨_, done_eq _, heard_alone s p⟩

/-! ## Stale frames -/

/-- A TALLY or MESSAGE is handed on in ACTIVE, and answered as stale in LEAVING (R7, R19 to R22). -/
theorem exec_tagged {i : Instr} {p : Station} {srcTag dstTag : Tag}
    (h : (∃ pairs : PerClass TallyPair, i = .tallyReceived p srcTag dstTag pairs) ∨
      (∃ (c : Cls) (seq : Count) (payload : List Byte),
        i = .messageReceived p srcTag dstTag c seq payload ∧ i.wellFormed = true)) :
    ∃ active : State → State,
      (∀ s : State, exec i s = done (s.frameReceived p active (·.staleSever p srcTag dstTag))) ∧
      (∀ s : State, (s.entry p).matchesTags srcTag dstTag = false ∨ (s.entry p).state = .absent ∨
        (s.entry p).state = .lost → active s = s.staleSever p srcTag dstTag) ∧
      ((∀ pairs : PerClass TallyPair, i ≠ .tallyReceived p srcTag dstTag pairs) → ∀ s : State,
        (s.entry p).matchesTags srcTag dstTag = true → (s.entry p).state = .joining → active s = s) := by
  obtain ⟨pairs, rfl⟩ | ⟨c, seq, payload, rfl, formed⟩ := h
  · exact ⟨State.handleTally p srcTag dstTag pairs, fun s => exec_tallyReceived s p srcTag dstTag pairs,
      fun s stale => handleTally_stale pairs stale, fun notTally => absurd rfl (notTally pairs)⟩
  · have inRange : ¬(payload.length = 0 ∨ Config.maxPayload < payload.length) := by
      obtain ⟨min, max⟩ := of_decide_eq_true formed
      exact payload_in_range min max
    exact ⟨State.handleMessage p srcTag dstTag c seq payload, fun s => by rw [exec_messageReceived, if_neg inRange],
      fun s stale => handleMessage_stale c seq payload stale,
      fun _ s matched joining => handleMessage_joining c seq payload matched joining⟩

/-- Settles O45: stale in ACTIVE, any in LEAVING, and a MESSAGE that matches a JOINING entry. -/
theorem staleFramesAreAnswered : Obligations.StaleFramesAreAnswered := by
  intro s p srcTag dstTag i tagged
  obtain ⟨active, hexec, stale, ignored⟩ := exec_tagged tagged
  rw [hexec]
  refine ⟨fun hears other => ?_, fun leaving frame own => ?_, fun hears joining own peer src dst notTally => ?_⟩
  · rw [frameReceived_active hears, stale _ (by simpa using not_session other)]
    obtain ⟨hentry, hothers, hended, hwrites⟩ := heard_frameEnded_onlyWrites
      (t := ((s.afterFrame p).staleSever p srcTag dstTag).driveAttn) (s := s) (p := p) (written := [.session, .arb, .line])
      rfl rfl (by simp [OnlyWrites])
    exact ⟨_, done_eq _, by simp [Arbiter.claimSever], hentry, hothers, hended, hwrites⟩
  · rw [frameReceived_leaving leaving frame own]
    exact ⟨_, done_eq _, rfl, rfl, by simp [OnlyWrites]⟩
  · have matched : (s.entry p).matchesTags srcTag dstTag = true := (matchesTags_iff _ _ _).mpr ⟨own, peer, src, dst⟩
    rw [frameReceived_active hears, ignored notTally _ (by simpa using matched) (by simpa using joining),
      afterFrame_of_not_open s p (by simp [joining])]
    exact ⟨_, done_eq _, rfl, by simp [OnlyWrites]⟩

/-- Settles O46: the frames that reach no handler's work. -/
theorem heardUpdateAlone : Obligations.HeardUpdateAlone := by
  intro s p kind
  refine ⟨fun hears => ?_, fun leaving frame own i hi => ?_⟩
  · rw [exec_frameAddressedToAnotherStation, frameReceived_active hears]
    exact ⟨_, done_eq _, heard_alone s p⟩
  · have ended : ∀ active : State → State,
        ∃ t : State, done (s.frameReceived p active id) = .next t ∧ FrameEnded s t ∧ OnlyWrites [.line] s t := by
      intro active
      rw [frameReceived_leaving leaving frame own]
      exact ⟨_, done_eq _, rfl, by simp [OnlyWrites]⟩
    obtain ⟨incarnation, rfl⟩ | ⟨a, b, rfl⟩ | ⟨a, b, reason, rfl⟩ | rfl := hi
    · exact ended _
    · exact ended _
    · exact ended _
    · exact ended _

/-! ## The own station number -/

/-- A well-formed good frame is handed to its handlers under its source. -/
theorem exec_receivedFrom {i : Instr} {p : Station} (formed : i.wellFormed = true) (h : receivedFrom i = some p) :
    ∃ active leaving : State → State, ∀ s : State, exec i s = done (s.frameReceived p active leaving) := by
  cases i with
  | announceReceived q incarnation =>
    obtain rfl := Option.some.inj h
    exact ⟨_, _, fun s => exec_announceReceived s q incarnation⟩
  | joinReceived q a b =>
    obtain rfl := Option.some.inj h
    exact ⟨_, _, fun s => exec_joinReceived s q a b⟩
  | severReceived q a b reason =>
    obtain rfl := Option.some.inj h
    exact ⟨_, _, fun s => exec_severReceived s q a b reason⟩
  | tallyReceived q a b pairs =>
    obtain rfl := Option.some.inj h
    exact ⟨_, _, fun s => exec_tallyReceived s q a b pairs⟩
  | messageReceived q a b cls seq payload =>
    obtain rfl := Option.some.inj h
    obtain ⟨active, hexec, -⟩ := exec_tagged (.inr ⟨cls, seq, payload, rfl, formed⟩)
    exact ⟨active, _, hexec⟩
  | frameAddressedToAnotherStation kind q =>
    obtain rfl := Option.some.inj h
    exact ⟨_, _, fun s => exec_frameAddressedToAnotherStation s kind q⟩
  | _ => simp [receivedFrom] at h

/-- Settles O47: whatever the frame, its source reveals the duplicate. -/
theorem ownNumberMutes : Obligations.OwnNumberMutes := by
  intro s i p formed source own station frame law
  obtain ⟨active, leaving, hexec⟩ := exec_receivedFrom formed source
  obtain ⟨-, hand⟩ := lineLaw_free law (by simp [frame]) (by simp [frame])
  obtain ⟨hmutes, hline⟩ := reportFault_mutes (s.setLine (.receiving .gap)) .duplicateStation station (by simp) (by simp) hand
  rw [hexec, frameReceived_own frame own]
  refine ⟨_, done_eq _, mutes_congr hmutes rfl rfl rfl, ?_⟩
  rw [driveAttn_line, hline]
  rfl

end Sys2Proof.Machine

/-! PROOFS. A TALLY that matches its session (R21, R96 to R99): valid or invalid on an OPEN entry, and the open it brings
about on a JOINING one. -/

namespace Sys2Proof.Machine

/-! ## When a TALLY is valid, and what it moves -/

section Unit
variable (tx : TransmitUnit) (p : Station) (pairs : PerClass TallyPair)

theorem tallyValid_iff : tx.tallyValid p pairs = true ↔ ∀ c : Cls,
    dist (look2 tx.counters p c).acked (look pairs c).accepted ≤
      dist (look2 tx.counters p c).acked (look2 tx.counters p c).next ∧
    dist (look pairs c).accepted (look2 tx.counters p c).next ≤ dist (look pairs c).accepted (look pairs c).limit ∧
    dist (look pairs c).accepted (look pairs c).limit ≤ 8 := by
  simp only [TransmitUnit.tallyValid, SendCounters.admits, Config.maxGrant, List.all_eq_true, mem_classes, forall_const,
    decide_eq_true_eq]

theorem advances_iff : tx.advances p pairs = true ↔
    ∃ c : Cls, (look pairs c).accepted ≠ (look2 tx.counters p c).acked := by
  simp only [TransmitUnit.advances, List.any_eq_true, mem_classes, true_and, decide_eq_true_eq, ne_comm]

theorem anyInFlight_iff : tx.anyInFlight p = true ↔ ∃ c : Cls, look2 tx.flights p c ≠ [] := by
  simp [TransmitUnit.anyInFlight]

end Unit

/-- What a valid TALLY makes of a class's counters, by whether anything stays in flight (R98). -/
theorem afterTally_eq (k : SendCounters) (t : TallyPair) (flights : List TxIx) :
    k.afterTally t flights.isEmpty =
      { next := k.next, acked := t.accepted, limit := t.limit,
        resend :=
          if flights = [] then none
          else k.resend.map fun q => if dist k.acked q < dist k.acked t.accepted then t.accepted else q } := by
  cases flights <;> rfl

/-- The send side of every other peer, where lists, counters, timer and count are the same. -/
theorem otherSendSidesKeep_of {s t : State} {p : Station} (queues : t.tx.queues = s.tx.queues)
    (lists : ∀ (q : Station) (c : Cls), q ≠ p → look2 t.tx.flights q c = look2 s.tx.flights q c ∧
      look2 t.tx.counters q c = look2 s.tx.counters q c)
    (timers : ∀ q : Station, q ≠ p → look t.tx.ackTimers q = look s.tx.ackTimers q ∧
      look t.tx.retries q = look s.tx.retries q) : OtherSendSidesKeep p s t := fun q hq =>
  ⟨by rw [queues], table_ext _ _ fun c => (lists q c hq).1, table_ext _ _ fun c => (lists q c hq).2, timers q hq⟩

section Valid
variable {s t : State} {p : Station} (pairs : PerClass TallyPair) (law : SlotLaw s)
  (applied : t.tx = s.tx.applyTally p pairs s.record.ackTimeout)
include law applied

/-- The acknowledged slots are SENT (R98, step 1). -/
theorem applyTally_completed : Completed .sent .none
    (classes.flatMap fun c => (look2 s.tx.flights p c).filter
      (s.ackedBefore (look2 s.tx.counters p c).acked (look pairs c).accepted)) [] s t := by
  obtain ⟨hcompletions, hpool, -⟩ := applyTally_spec s.tx p pairs s.record.ackTimeout (inFlight_one_class law)
  rw [← applied] at hcompletions hpool
  refine ⟨hcompletions, fun i hi r hr => ?_, fun i hi _ => (hpool i).trans (if_neg hi)⟩
  refine ((hpool i).trans (if_pos hi)).trans ?_
  rw [(slot_iff _ _ _).mp hr]
  rfl

/-- In each class the list loses the acknowledged slots, and the counters move (R98, steps 2 and 3). -/
theorem applyTally_class (c : Cls) :
    look2 t.tx.flights p c = (look2 s.tx.flights p c).filter (fun i =>
      !s.ackedBefore (look2 s.tx.counters p c).acked (look pairs c).accepted i) ∧
    look2 t.tx.counters p c =
      { next := (look2 s.tx.counters p c).next, acked := (look pairs c).accepted, limit := (look pairs c).limit,
        resend :=
          if look2 t.tx.flights p c = [] then none
          else (look2 s.tx.counters p c).resend.map fun q =>
            if dist (look2 s.tx.counters p c).acked q < dist (look2 s.tx.counters p c).acked (look pairs c).accepted then
              (look pairs c).accepted
            else q } := by
  obtain ⟨-, -, hlists, -⟩ := applyTally_spec s.tx p pairs s.record.ackTimeout (inFlight_one_class law)
  rw [← applied] at hlists
  obtain ⟨hflights, hcounters⟩ := hlists p c
  rw [if_pos rfl] at hflights hcounters
  refine ⟨hflights, hcounters.trans ?_⟩
  rw [hflights]
  exact afterTally_eq _ _ _

/-- Where some class's acked advanced, the retry count is 0 and the ack timer runs while slots are in flight (R99). -/
theorem applyTally_timer :
    if ∃ c : Cls, (look pairs c).accepted ≠ (look2 s.tx.counters p c).acked then
      look t.tx.retries p = 0 ∧
      look t.tx.ackTimers p =
        if ∃ c : Cls, look2 t.tx.flights p c ≠ [] then .running (s.record.ackTimeout + 1) else .stopped
    else look t.tx.retries p = look s.tx.retries p ∧ look t.tx.ackTimers p = look s.tx.ackTimers p := by
  obtain ⟨-, -, -, -, -, -, -, hretries, htimers⟩ :=
    applyTally_spec s.tx p pairs s.record.ackTimeout (inFlight_one_class law)
  rw [← applied] at hretries htimers
  by_cases advanced : ∃ c : Cls, (look pairs c).accepted ≠ (look2 s.tx.counters p c).acked
  · have ha := (advances_iff s.tx p pairs).mpr advanced
    rw [if_pos advanced, hretries, htimers, if_pos ha, if_pos ha, look_put_self, look_put_self]
    refine ⟨rfl, ?_⟩
    by_cases flying : ∃ c : Cls, look2 t.tx.flights p c ≠ []
    · rw [if_pos flying, if_pos ((anyInFlight_iff t.tx p).mpr flying)]
      rfl
    · rw [if_neg flying, if_neg (mt (anyInFlight_iff t.tx p).mp flying)]
  · have ha := mt (advances_iff s.tx p pairs).mp advanced
    rw [if_neg advanced, hretries, htimers, if_neg ha, if_neg ha]
    exact ⟨rfl, rfl⟩

/-- The rest of the send side (R98, R99). -/
theorem applyTally_others : OtherSendSidesKeep p s t ∧ t.tx.queues = s.tx.queues ∧ t.tx.sending = s.tx.sending ∧
    t.tx.tie = s.tx.tie ∧ t.tx.nextOrder = s.tx.nextOrder := by
  obtain ⟨-, -, hlists, hqueues, hsending, htie, horder, hretries, htimers⟩ :=
    applyTally_spec s.tx p pairs s.record.ackTimeout (inFlight_one_class law)
  rw [← applied] at hlists hqueues hsending htie horder hretries htimers
  refine ⟨otherSendSidesKeep_of hqueues (fun q c hq => ?_) fun q hq => ?_, hqueues, hsending, htie, horder⟩
  · obtain ⟨hflights, hcounters⟩ := hlists q c
    exact ⟨hflights.trans (if_neg hq), hcounters.trans (if_neg hq)⟩
  · rw [htimers, hretries]
    split
    · exact ⟨look_put_ne _ _ (Ne.symm hq), look_put_ne _ _ (Ne.symm hq)⟩
    · exact ⟨rfl, rfl⟩

end Valid

/-! ## On an OPEN entry -/

theorem processTally_valid {s : State} {p : Station} {pairs : PerClass TallyPair} (h : s.tx.tallyValid p pairs = true) :
    s.processTally p pairs = { s with tx := s.tx.applyTally p pairs s.record.ackTimeout } := if_pos h

theorem processTally_invalid {s : State} {p : Station} {pairs : PerClass TallyPair}
    (h : ¬s.tx.tallyValid p pairs = true) (opened : (s.entry p).state = .opened) :
    s.processTally p pairs = s.closeSession .protocol p := by
  rw [State.processTally, if_neg h]
  exact if_pos ⟨opened, rfl, rfl⟩

/-- Settles O48: by whether every class's pair is in range. -/
theorem tallyOnOpenSession : Obligations.TallyOnOpenSession := by
  intro s p srcTag dstTag pairs hears opened own peer src dst law
  have matched : (s.entry p).matchesTags srcTag dstTag = true := (matchesTags_iff _ _ _).mpr ⟨own, peer, src, dst⟩
  rw [exec_tallyReceived, frameReceived_active hears,
    handleTally_opened pairs (by simpa using matched) (by simpa using opened)]
  split
  next valid =>
    rw [processTally_valid (by simpa using (tallyValid_iff s.tx p pairs).mpr valid)]
    have applied : ({ s.afterFrame p with
        tx := (s.afterFrame p).tx.applyTally p pairs (s.afterFrame p).record.ackTimeout } : State).driveAttn.tx =
        s.tx.applyTally p pairs s.record.ackTimeout := by simp
    obtain ⟨hothers, hqueues, hsending, htie, horder⟩ := applyTally_others pairs law applied
    exact ⟨_, done_eq _, applyTally_completed pairs law applied, applyTally_class pairs law applied,
      applyTally_timer pairs law applied, hothers, hqueues, hsending, htie, horder,
      heard_frameEnded_onlyWrites rfl rfl (by simp [OnlyWrites])⟩
  next invalid =>
    have hinvalid : ¬(s.afterFrame p).tx.tallyValid p pairs = true := by
      simpa using mt (tallyValid_iff s.tx p pairs).mp invalid
    rw [processTally_invalid hinvalid (by simpa using opened)]
    have closes := close_of_frame (s := s) (p := p) (reason := .protocol) (by simp)
    exact ⟨_, done_eq _, closes⟩

/-! ## On a JOINING entry -/

/-- A TALLY's work on an OPEN entry does not look at ATTN. -/
theorem processTally_driveAttn {s : State} {p : Station} (pairs : PerClass TallyPair) (opened : (s.entry p).state = .opened) :
    (s.driveAttn.processTally p pairs).driveAttn = (s.processTally p pairs).driveAttn := by
  by_cases valid : s.tx.tallyValid p pairs = true
  · rw [processTally_valid valid, processTally_valid (s := s.driveAttn) valid]
    rfl
  · rw [processTally_invalid valid opened, processTally_invalid (s := s.driveAttn) valid opened]
    rfl

/-- The heard update of an entry whose silence timer has just been started (R8). -/
theorem heard_of_started {s : State} {p : Station} (h : s.heardEntry p = s.entry p) : s.heard p = s := by
  have same : put s.session p (s.heardEntry p) = s.session := by rw [h]; exact put_look_self _ _
  rw [heard_eq, same]

/-- Settles O49: the open is the one a JOIN brings about, and after it the TALLY meets an OPEN entry with the same tags,
whose silence timer the open has started. -/
theorem tallyOpensJoiningEntry : Obligations.TallyOpensJoiningEntry := by
  intro s u p srcTag dstTag pairs hears joining own peer src dst hu
  have matched : (s.entry p).matchesTags srcTag dstTag = true := (matchesTags_iff _ _ _).mpr ⟨own, peer, src, dst⟩
  have tag : srcTag ≠ 0 := src ▸ peer
  have returned : (s.entry p).returnedBy dstTag = true := decide_eq_true ⟨dst, own⟩
  obtain ⟨v, hv⟩ : ∃ v : State, v = s.setLine (.receiving .gap) := ⟨_, rfl⟩
  have after : s.afterFrame p = v := hv ▸ afterFrame_of_not_open s p (by simp [joining])
  have entry : v.entry p = s.entry p := by rw [hv]; rfl
  have learned : v.learnPeerTag p srcTag = v := by
    have same : ({ v.entry p with peerTag := srcTag } : PeerEntry) = v.entry p := by rw [src, entry]
    rw [State.learnPeerTag, same]
    exact congrArg (fun e => { v with session := e }) (put_look_self v.session p)
  rw [exec_joinReceived, frameReceived_active hears, after, handleJoin_returned (entry ▸ joining) tag (entry ▸ returned),
    learned, done_eq] at hu
  obtain rfl := Host.Outcome.next.inj hu
  have opens : (v.openSession p).entry p =
      (v.entry p).openedWith v.record.silenceMs v.record.refreshInterval := entry_put (s := v) rfl
  have opened : ((v.openSession p).entry p).state = .opened := by rw [opens]; rfl
  have tags : ((v.openSession p).entry p).matchesTags srcTag dstTag = true := by
    rw [opens]
    exact (entry ▸ matched : (v.entry p).matchesTags srcTag dstTag = true)
  have started : (v.openSession p).driveAttn.heardEntry p = (v.openSession p).driveAttn.entry p := by
    have runs : ({ (v.openSession p).entry p with
        silenceTimer := .running (v.record.silenceMultiple * v.record.refreshInterval + 1) } : PeerEntry) =
        (v.openSession p).entry p := by
      rw [opens]
      rfl
    exact (if_pos opened).trans runs
  refine ⟨opened, ?_⟩
  have hearsAgain : Hears p { (v.openSession p).driveAttn with line := s.line } := by
    obtain ⟨active, frame, other⟩ := hears
    subst hv
    exact ⟨active, frame, other⟩
  have afterAgain : ({ (v.openSession p).driveAttn with line := s.line } : State).afterFrame p =
      (v.openSession p).driveAttn := by
    have ended : ({ (v.openSession p).driveAttn with line := s.line } : State).setLine (.receiving .gap) =
        (v.openSession p).driveAttn := by subst hv; rfl
    rw [State.afterFrame, ended, heard_of_started started]
  rw [exec_tallyReceived, exec_tallyReceived, frameReceived_active hears, frameReceived_active hearsAgain, after, afterAgain,
    handleTally_joining pairs (entry ▸ matched) (entry ▸ joining),
    handleTally_opened (s := (v.openSession p).driveAttn) pairs tags opened, done_eq, done_eq,
    processTally_driveAttn pairs opened]

end Sys2Proof.Machine

/-! PROOFS. The five expiries (R24 to R27, R102): what each does where its timer runs in the state it belongs to. -/

namespace Sys2Proof.Machine

section Expiry
variable {s : State} {p : Station}

/-! ## The session timers -/

/-- A retry of the JOIN below the limit J (R24). -/
theorem joinTimerExpiry_retry (joining : (s.entry p).state = .joining) (running : (s.entry p).joinTimer.isRunning = true)
    (below : (s.entry p).joinAttempts < s.record.joinAttempts) :
    joinTimerExpiryEffect p s =
      (s.setEntry p { s.entry p with
        joinAttempts := (s.entry p).joinAttempts + 1, joinTimer := .running (s.record.joinInterval + 1) }).claimJoin p := by
  simp only [joinTimerExpiryEffect, running, joining, below, if_true]
  rfl

theorem joinTimerExpiry_last (joining : (s.entry p).state = .joining) (running : (s.entry p).joinTimer.isRunning = true)
    (limit : s.record.joinAttempts ≤ (s.entry p).joinAttempts) :
    joinTimerExpiryEffect p s = s.closeSession .joinFailed p := by
  simp only [joinTimerExpiryEffect, running, joining, if_true, if_neg (Nat.not_lt.mpr limit)]

theorem holdDownExpiry_lost (lost : (s.entry p).state = .lost) (running : (s.entry p).holdDownTimer.isRunning = true) :
    holdDownExpiryEffect p s = s.freshJoining p 0 := by
  simp only [holdDownExpiryEffect, running, lost, if_true]

theorem silenceExpiry_opened (opened : (s.entry p).state = .opened) (running : (s.entry p).silenceTimer.isRunning = true) :
    silenceExpiryEffect p s = s.closeSession .silent p := by
  simp only [silenceExpiryEffect, running, opened, if_true]

/-- A refresh of the TALLY (R27). -/
theorem refreshExpiry_opened (opened : (s.entry p).state = .opened) (running : (s.entry p).refreshTimer.isRunning = true) :
    refreshExpiryEffect p s =
      (s.setEntry p { s.entry p with refreshTimer := .running (s.record.refreshInterval + 1) }).claimTally p := by
  simp only [refreshExpiryEffect, running, opened, if_true]
  rfl

/-- A close at an expiry, for a reason other than RESTART. -/
theorem close_at_expiry {reason : CloseReason} (notRestart : reason ≠ .restart) :
    Closes reason (closeDestination reason (s.entry p).state)
        ((closeSever reason (s.entry p).state).map (s.entry p).severFor) p s (s.closeSession reason p).driveAttn ∧
      OnlyWrites [.session, .rx, .tx, .arb, .port] s (s.closeSession reason p).driveAttn :=
  ⟨closes_driveAttn (closeSession_closes s notRestart p), by simp [OnlyWrites]⟩

/-! ## The ack timer -/

theorem ackTimerExpiry_retry (running : (look s.tx.ackTimers p).isRunning = true)
    (below : look s.tx.retries p < s.record.retryLimit) :
    ackTimerExpiryEffect p s = { s with tx := (s.tx.stopAck p).retry p } := by
  simp only [ackTimerExpiryEffect, running, below, if_true]

theorem ackTimerExpiry_last (running : (look s.tx.ackTimers p).isRunning = true)
    (limit : s.record.retryLimit ≤ look s.tx.retries p) (opened : (s.entry p).state = .opened) :
    ackTimerExpiryEffect p s = ({ s with tx := s.tx.stopAck p } : State).closeSession .unresponsive p := by
  simp only [ackTimerExpiryEffect, running, if_true, if_neg (Nat.not_lt.mpr limit)]
  exact if_pos ⟨opened, rfl, rfl⟩

/-- A close does not look at the ack timer of the peer it closes (R106). -/
theorem closes_stopAck {reason : CloseReason} {dest : PeerState} {sever : Option SeverClaim} {t : State}
    (h : Closes reason dest sever p { s with tx := s.tx.stopAck p } t) : Closes reason dest sever p s t := by
  obtain ⟨hentry, hreserved, ⟨hcompleted, hlists, hzero, hothers, hrest⟩, hclaims, hport⟩ := h
  refine ⟨hentry, hreserved, ⟨hcompleted, hlists, hzero, fun q hq => ?_, hrest⟩, hclaims, hport⟩
  obtain ⟨hqueues, hflights, hcounters, htimer, hretries⟩ := hothers q hq
  exact ⟨hqueues, hflights, hcounters, htimer.trans (look_put_ne _ _ (Ne.symm hq)), hretries⟩

end Expiry

/-! ## The statements -/

/-- Settles O52: each timer in the state it belongs to. -/
theorem sessionTimersExpire : Obligations.SessionTimersExpire := by
  intro s p
  rw [exec_joinTimerExpiry, exec_holdDownExpiry, exec_silenceExpiry, exec_refreshExpiry]
  refine ⟨fun joining running below => ?_, fun joining running limit => ?_, fun lost running => ?_,
    fun opened running => ?_, fun opened running => ?_⟩
  · rw [joinTimerExpiry_retry joining running below]
    exact ⟨_, done_eq _, entry_put (s := s) rfl, othersKeep_put rfl, rfl, by simp [OnlyWrites]⟩
  · rw [joinTimerExpiry_last joining running limit]
    have closes := close_at_expiry (s := s) (p := p) (reason := .joinFailed) (by simp)
    exact ⟨_, done_eq _, closes⟩
  · rw [holdDownExpiry_lost lost running]
    obtain ⟨joins, arb⟩ := freshJoining_joins s p 0
    exact ⟨_, done_eq _, joins, arb, by simp [OnlyWrites]⟩
  · rw [silenceExpiry_opened opened running]
    have closes := close_at_expiry (s := s) (p := p) (reason := .silent) (by simp)
    exact ⟨_, done_eq _, closes⟩
  · rw [refreshExpiry_opened opened running]
    exact ⟨_, done_eq _, entry_put (s := s) rfl, othersKeep_put rfl, rfl, by simp [OnlyWrites]⟩

/-- Settles O53: below the retry limit a go-back, at it the close. -/
theorem ackTimerExpires : Obligations.AckTimerExpires := by
  intro s p running
  rw [exec_ackTimerExpiry]
  refine ⟨fun below => ?_, fun limit opened => ?_⟩
  · rw [ackTimerExpiry_retry running below]
    obtain ⟨hcounters, hrest⟩ := retry_spec (s.tx.stopAck p) p
    generalize (s.tx.stopAck p).retry p = tx at hcounters hrest ⊢
    exact ⟨_, done_eq _, hrest, hcounters, by simp [OnlyWrites]⟩
  · rw [ackTimerExpiry_last running limit opened]
    obtain ⟨closes, writes⟩ := close_at_expiry (s := { s with tx := s.tx.stopAck p }) (p := p)
      (reason := .unresponsive) (by simp)
    exact ⟨_, done_eq _, closes_stopAck closes, by simp [OnlyWrites]⟩

end Sys2Proof.Machine

/-! PROOFS. The two encodings: a host command's bytes (section 10.2), and a frame's bits through head, fields, frame check and
stuffing (R123, R131, section 10.1). -/

namespace Sys2Proof

/-! ## Host commands -/

theorem word16_bytes (x : BitVec 16) : word16 (highByte x) (lowByte x) = x := by
  refine BitVec.eq_of_toNat_eq ?_
  simp only [word16, highByte, lowByte, BitVec.toNat_append, BitVec.extractLsb'_toNat, Nat.shiftRight_zero]
  rw [← Nat.shiftLeft_add_eq_or_of_lt (Nat.mod_lt _ (by decide)), Nat.shiftLeft_eq, Nat.shiftRight_eq_div_pow]
  omega

/-- The bytes of a command are decoded to it, and so are more bytes behind them, but for a SUBMIT's payload (R138). -/
theorem commandOfMosi_mosiOf {i : Instr} {bytes : List Byte} (formed : i.wellFormed = true) (h : mosiOf i = some bytes)
    (extra : List Byte)
    (noPayload : extra = [] ∨ ∀ (d c : Byte) (tag len : BitVec 16) (payload : List Byte), i ≠ .submit d c tag len payload) :
    commandOfMosi (bytes ++ extra) = some i := by
  cases i with
  | submit d c tag len payload =>
    obtain rfl | notSubmit := noPayload
    · obtain rfl := Option.some.inj h
      simp [commandOfMosi, word16_bytes]
    · exact absurd rfl (notSubmit d c tag len payload)
  | cancel tag d =>
    obtain rfl := Option.some.inj h
    simp [commandOfMosi, word16_bytes]
  | unknownCommand code =>
    obtain rfl := Option.some.inj h
    have unnamed : code ∉ commandCodes := by simpa [Instr.wellFormed, namesCommand] using formed
    simp only [commandCodes, List.mem_cons, List.not_mem_nil, or_false, not_or] at unnamed
    obtain ⟨h1, h2, h3, h4, h5, h6, h7, h8, h9, h10, h11, h12⟩ := unnamed
    simp only [List.cons_append, commandOfMosi, h1, h2, h3, h4, h5, h6, h7, h8, h9, h10, h11, h12, if_false]
  | configure | start | leave | reset | completions | take | peek | status | peers | mask =>
    obtain rfl := Option.some.inj h
    rfl
  | _ => simp [mosiOf] at h

/-- Settles O60: the bits make the bytes, the bytes the command. -/
theorem mosiRoundTrip : Obligations.MosiRoundTrip := by
  intro i bytes extra cut formed h hcut
  refine ⟨?_, ?_, fun notSubmit => ?_⟩
  · simpa using commandOfMosi_mosiOf formed h [] (.inl rfl)
  · rw [commandOfPort, bytesOfBits_bits bytes cut hcut]
    simpa using commandOfMosi_mosiOf formed h [] (.inl rfl)
  · rw [commandOfPort, bytesOfBits_bits _ cut hcut]
    exact commandOfMosi_mosiOf formed h extra (.inr notSubmit)

/-! ## Fields of a body -/

section Fields
variable {w : Nat}

theorem field_skip (a l : List Bool) {at_ : Nat} (h : a.length ≤ at_) : field (a ++ l) at_ w = field l (at_ - a.length) w := by
  simp only [field, List.drop_append, List.drop_eq_nil_of_le h, List.nil_append]

theorem field_here (x : BitVec w) (post : List Bool) : field (fieldBits x ++ post) 0 w = x := field_append x [] post rfl

/-- A field that the bits read so far hold is the whole body's. -/
theorem field_take (l : List Bool) {at_ n : Nat} (h : at_ + w ≤ n) : field (l.take n) at_ w = field l at_ w := by
  simp only [field, List.drop_take, List.take_take]
  rw [Nat.min_eq_left (by omega)]

theorem stationField_skip (a l : List Bool) {at_ : Nat} (h : a.length ≤ at_) :
    stationField (a ++ l) at_ = stationField l (at_ - a.length) := by
  rw [stationField, field_skip a l h, stationField]

theorem stationField_here (p : Station) (post : List Bool) : stationField (stationBits p ++ post) 0 = p :=
  stationField_append p [] post rfl

end Fields

/-- The bytes of a payload are read back one by one. -/
theorem field_payload (payload : List Byte) (post : List Bool) (k : Nat) (hk : k < payload.length) :
    field (payload.flatMap fieldBits ++ post) (8 * k) 8 = payload[k] := by
  induction payload generalizing k with
  | nil => simp at hk
  | cons b l ih =>
    rw [List.flatMap_cons, List.append_assoc]
    cases k with
    | zero => exact field_here b _
    | succ k =>
      rw [field_skip _ _ (by rw [length_fieldBits]; omega), length_fieldBits]
      exact ih k (by simpa using hk)

theorem length_payloadBits (payload : List Byte) : (payload.flatMap fieldBits).length = 8 * payload.length := by
  induction payload with
  | nil => rfl
  | cons b l ih => rw [List.flatMap_cons, List.length_append, ih, length_fieldBits, List.length_cons]; ring

namespace Frame

/-- The frame check of a frame's bits (R131). -/
def check (f : Frame) : BitVec 32 := frameCheck f.coveredBits

/-- The body, head field by head field. -/
theorem bodyBits_head (f : Frame) : f.bodyBits =
    fieldBits f.rank ++ (stationBits f.source ++ (fieldBits f.kindCode ++ (f.kindBits ++ fieldBits f.check))) := by
  simp only [bodyBits, coveredBits, headBits, check, List.append_assoc]

theorem field_rank (f : Frame) : field f.bodyBits 0 3 = f.rank := by
  rw [bodyBits_head]
  exact field_here _ _

theorem field_source (f : Frame) : stationField f.bodyBits 3 = f.source := by
  rw [bodyBits_head, stationField_skip _ _ (by rw [length_fieldBits]), length_fieldBits]
  exact stationField_here _ _

theorem field_kind (f : Frame) : field f.bodyBits 7 4 = f.kindCode := by
  rw [bodyBits_head, field_skip _ _ (by simp), length_fieldBits, field_skip _ _ (by simp), length_stationBits]
  exact field_here _ _

/-- Behind the head stand the fields of the kind. -/
theorem field_behind {w : Nat} (f : Frame) {at_ : Nat} (h : 11 ≤ at_) :
    field f.bodyBits at_ w = field (f.kindBits ++ fieldBits f.check) (at_ - 11) w := by
  rw [bodyBits_head, field_skip _ _ (by rw [length_fieldBits]; omega), length_fieldBits,
    field_skip _ _ (by rw [length_stationBits]; omega), length_stationBits,
    field_skip _ _ (by rw [length_fieldBits]; omega), length_fieldBits]
  rfl

theorem stationField_behind (f : Frame) : stationField f.bodyBits 11 = stationField (f.kindBits ++ fieldBits f.check) 0 := by
  rw [stationField, field_behind f (Nat.le_refl 11), stationField]

/-- The number of bits of the kind's fields (section 10.1, "Frame sizes"). -/
theorem length_kindBits (f : Frame) : f.kindBits.length =
    match f with
    | .announce .. => 8
    | .join .. => 36
    | .tally .. => 100
    | .sever .. => 44
    | .message _ _ _ _ _ _ payload => 53 + 8 * payload.length := by
  cases f with
  | tally src dst a b pairs =>
    obtain ⟨⟨l⟩, h⟩ := pairs
    match l, h with
    | [t0, t1, t2, t3], _ => simp [kindBits, TallyPair.bits]
  | message src dst a b c seq payload =>
    simp only [kindBits, List.length_append, length_fieldBits, length_stationBits, length_payloadBits]
  | announce | join | sever => simp [kindBits]

theorem length_bodyBits (f : Frame) : f.bodyBits.length = 11 + f.kindBits.length + 32 := by
  simp only [bodyBits_head, List.length_append, length_fieldBits, length_stationBits]
  omega

/-- The bits the check covers are the body without its last 32, and those are the check (R131). -/
theorem check_field (f : Frame) : field f.bodyBits (f.bodyBits.length - 32) 32 = f.check ∧
    f.bodyBits.take (f.bodyBits.length - 32) = f.coveredBits := by
  have length : f.bodyBits.length - 32 = f.coveredBits.length := by
    simp only [bodyBits, List.length_append, length_fieldBits]
    omega
  rw [length, bodyBits]
  refine ⟨?_, List.take_left⟩
  rw [field_skip _ _ (Nat.le_refl _), Nat.sub_self, ← List.append_nil (fieldBits (frameCheck f.coveredBits))]
  exact field_here _ _

/-! ## What the bits read so far tell -/

/-- The bit from which on the size of the body is known: behind the kind, or for a MESSAGE behind its length field. -/
def sizeKnownAt : Frame → Nat
  | .message .. => 64
  | _ => 11

theorem field_length {src dst : Station} {a b : Tag} {c : Cls} {seq : Count} {payload : List Byte} :
    field (Frame.message src dst a b c seq payload).bodyBits 55 9 = BitVec.ofNat 9 payload.length := by
  rw [field_behind _ (by decide), kindBits]
  simp only [List.append_assoc]
  rw [field_skip _ _ (by rw [length_stationBits]; decide), field_skip _ _ (by simp), field_skip _ _ (by simp),
    field_skip _ _ (by simp)]
  simp only [length_stationBits, length_fieldBits]
  exact field_here _ _

theorem length_of_formed {src dst : Station} {a b : Tag} {c : Cls} {seq : Count} {payload : List Byte}
    (h : (Frame.message src dst a b c seq payload).wellFormed = true) :
    (BitVec.ofNat 9 payload.length).toNat = payload.length ∧ 1 ≤ payload.length ∧ payload.length ≤ 500 := by
  obtain ⟨min, max⟩ : 1 ≤ payload.length ∧ payload.length ≤ 500 := of_decide_eq_true h
  exact ⟨by simp only [BitVec.toNat_ofNat]; omega, min, max⟩

section SoFar
variable {f : Frame} (formed : f.wellFormed = true) {n : Nat} (le : n ≤ f.bodyBits.length)

theorem rank_le (f : Frame) : f.rank.toNat ≤ 4 := by
  cases f with
  | message src dst a b c seq payload =>
    have := c.isLt
    simp only [rank, BitVec.toNat_ofNat]
    omega
  | announce | join | tally | sever => exact Nat.zero_le 4

theorem kindFits_take (h : 11 ≤ n) : kindFits (f.bodyBits.take n) = true := by
  have hrank : field (f.bodyBits.take n) 0 3 = f.rank := (field_take _ (by omega)).trans f.field_rank
  have hkind : field (f.bodyBits.take n) 7 4 = f.kindCode := (field_take _ (by omega)).trans f.field_kind
  simp only [kindFits, hrank, hkind]
  cases f with
  | message src dst a b c seq payload =>
    have := c.isLt
    simp only [rank, kindCode, BitVec.toNat_ofNat]
    exact decide_eq_true ⟨by omega, by omega⟩
  | announce | join | tally | sever => rfl

include formed le

/-- The size of the body is told by the first bits that can tell it, and never changes (R123). -/
theorem bodySize_take :
    bodySize (f.bodyBits.take n) = if n < f.sizeKnownAt then none else some f.bodyBits.length := by
  have length : (f.bodyBits.take n).length = n := by rw [List.length_take, Nat.min_eq_left le]
  have size := f.length_bodyBits
  rw [f.length_kindBits] at size
  unfold bodySize
  rw [length]
  by_cases h11 : n < 11
  · have : n < f.sizeKnownAt := by cases f <;> simp only [sizeKnownAt] <;> omega
    rw [if_pos h11, if_pos this]
  · have hkind : field (f.bodyBits.take n) 7 4 = f.kindCode := (field_take _ (by omega)).trans f.field_kind
    rw [if_neg h11, hkind, size]
    cases f with
    | message src dst a b c seq payload =>
      simp only [sizeKnownAt, kindCode]
      by_cases h64 : n < 64
      · simp [h64]
      · obtain ⟨hlen, -⟩ := length_of_formed formed
        have hfield := (field_take (w := 9) (n := n) (Frame.message src dst a b c seq payload).bodyBits (at_ := 55) (by omega)).trans
          field_length
        simp only [h64, if_false, hfield, hlen]
        exact congrArg some (by omega)
    | announce | join | tally | sever => simp [sizeKnownAt, kindCode, h11]

/-- No condition of R132 is found met on the way through a body. -/
theorem foundBad_take : foundBad (f.bodyBits.take n) = none := by
  have length : (f.bodyBits.take n).length = n := by rw [List.length_take, Nat.min_eq_left le]
  have badRank : ¬(n = 7 ∧ 5 ≤ (field (f.bodyBits.take n) 0 3).toNat) := fun ⟨h7, h5⟩ => by
    rw [field_take _ (by omega), field_rank] at h5
    have := f.rank_le
    omega
  have badKind : ¬(n = 11 ∧ kindFits (f.bodyBits.take n) = false) := fun ⟨h11, hk⟩ => by
    simp [kindFits_take (f := f) (n := n) (by omega)] at hk
  have badLength : ¬(n = 64 ∧ (field (f.bodyBits.take n) 7 4).toNat = 5 ∧
      ((field (f.bodyBits.take n) 55 9).toNat = 0 ∨ 500 < (field (f.bodyBits.take n) 55 9).toNat)) := fun ⟨h64, hk, hlen⟩ => by
    rw [field_take _ (by omega), field_kind] at hk
    rw [field_take _ (by omega)] at hlen
    cases f with
    | message src dst a b c seq payload =>
      obtain ⟨heq, min, max⟩ := length_of_formed formed
      rw [field_length, heq] at hlen
      omega
    | announce | join | tally | sever => simp [kindCode] at hk
  have badCheck : ¬(n = f.bodyBits.length ∧ field (f.bodyBits.take n) (f.bodyBits.length - 32) 32 ≠
      frameCheck ((f.bodyBits.take n).take (f.bodyBits.length - 32))) := fun ⟨hn, hc⟩ => by
    obtain ⟨hfield, htake⟩ := f.check_field
    rw [hn, List.take_length, hfield, htake] at hc
    exact hc rfl
  simp only [foundBad, length, bodySize_take formed le, if_neg badRank, if_neg badKind, if_neg badLength]
  split
  next size hsize =>
    split at hsize
    · simp at hsize
    · obtain rfl := Option.some.inj hsize
      exact if_neg badCheck
  next => rfl

/-- The body is whole at its last bit and not before. -/
theorem bodyWhole_take : bodyWhole (f.bodyBits.take n) = decide (n = f.bodyBits.length) := by
  have length : (f.bodyBits.take n).length = n := by rw [List.length_take, Nat.min_eq_left le]
  have known : f.sizeKnownAt ≤ f.bodyBits.length := by
    rw [f.length_bodyBits, f.length_kindBits]
    cases f <;> simp only [sizeKnownAt] <;> omega
  simp only [bodyWhole, length, bodySize_take formed le]
  by_cases hn : n < f.sizeKnownAt
  · rw [if_pos hn]
    simp
    omega
  · rw [if_neg hn]
    simp [eq_comm]

end SoFar

/-! ## The frame a body spells -/

/-- Each class's pair of a TALLY is read back. -/
theorem pairField_tally (src dst : Station) (a b : Tag) (pairs : PerClass TallyPair) (c : Cls) :
    pairField (Frame.tally src dst a b pairs).bodyBits c.val = Machine.look pairs c := by
  obtain ⟨⟨l⟩, h⟩ := pairs
  match l, h with
  | [t0, t1, t2, t3], _ =>
    fin_cases c <;>
      simp [pairField, field_behind, kindBits, TallyPair.bits, field_skip, field_here, Machine.look]

/-- The payload of a MESSAGE is read back. -/
theorem payloadField_message (src dst : Station) (a b : Tag) (c : Cls) (seq : Count) (payload : List Byte) :
    payloadField (Frame.message src dst a b c seq payload).bodyBits payload.length = payload := by
  have read : ∀ k : Nat, (hk : k < payload.length) →
      field (Frame.message src dst a b c seq payload).bodyBits (64 + 8 * k) 8 = payload[k] := by
    intro k hk
    rw [field_behind _ (by omega), kindBits]
    simp only [List.append_assoc]
    rw [field_skip _ _ (by simp; omega), field_skip _ _ (by simp; omega), field_skip _ _ (by simp; omega),
      field_skip _ _ (by simp; omega), field_skip _ _ (by simp; omega)]
    simp only [length_stationBits, length_fieldBits]
    rw [show 64 + 8 * k - 11 - 4 - 16 - 16 - 8 - 9 = 8 * k by omega]
    exact field_payload payload _ k hk
  refine List.ext_getElem (by simp [payloadField]) fun k h1 h2 => ?_
  simp only [payloadField, List.getElem_map, List.getElem_range]
  exact read k h2

/-- Every field of a whole body is the frame's (section 10.1). -/
theorem frameOfBody_bodyBits {f : Frame} (formed : f.wellFormed = true) : frameOfBody f.bodyBits = some f := by
  simp only [frameOfBody, field_source, field_kind, field_rank, stationField_behind]
  cases f with
  | announce src inc => simp [kindCode, field_behind, kindBits, field_here, Frame.source]
  | join src dst a b =>
    simp [kindCode, field_behind, kindBits, field_here, field_skip, stationField_here, Frame.source]
  | sever src dst a b reason =>
    simp [kindCode, field_behind, kindBits, field_here, field_skip, stationField_here, Frame.source]
  | tally src dst a b pairs =>
    have read : #v[pairField (Frame.tally src dst a b pairs).bodyBits 0, pairField (Frame.tally src dst a b pairs).bodyBits 1,
        pairField (Frame.tally src dst a b pairs).bodyBits 2, pairField (Frame.tally src dst a b pairs).bodyBits 3] =
        pairs := by
      refine Machine.table_ext _ _ fun c => ?_
      rw [← pairField_tally src dst a b pairs c]
      fin_cases c <;> rfl
    rw [read]
    simp [kindCode, field_behind, kindBits, field_here, field_skip, stationField_here, Frame.source]
  | message src dst a b c seq payload =>
    obtain ⟨hlen, -⟩ := length_of_formed formed
    have cls : Fin.ofNat 4 ((Frame.message src dst a b c seq payload).rank.toNat - 1) = c :=
      (by decide : ∀ d : Cls, Fin.ofNat 4 ((BitVec.ofNat 3 (1 + d.val)).toNat - 1) = d) c
    rw [field_length, hlen, payloadField_message, cls]
    simp [kindCode, field_behind, kindBits, field_here, field_skip, stationField_here, Frame.source]

end Frame

/-- Settles O59: the body is unstuffed to itself, and its fields are the frame's. -/
theorem frameRoundTrip : Obligations.FrameRoundTrip := by
  intro f formed
  have pos : 43 ≤ f.bodyBits.length := by
    rw [f.length_bodyBits]
    omega
  have hne : f.bodyBits ≠ [] := fun h => by simp [h] at pos
  have whole : bodyWhole f.bodyBits = true := by
    simpa using Frame.bodyWhole_take formed (Nat.le_refl f.bodyBits.length)
  rw [Frame.lineBits, List.cons_append, receiveBits,
    readBody_stuff f.bodyBits hne false 1 [] (by decide) (fun k hk => Frame.foundBad_take formed hk)
      (fun k hk => ?_) whole, List.nil_append, readEnd_delimiter, Frame.frameOfBody_bodyBits formed]
  rw [List.nil_append, Frame.bodyWhole_take formed (by omega)]
  exact decide_eq_false (by omega)

end Sys2Proof
